-- ==== Sys2Proof/Word.lean ====
section
/-! DEFINITION. The words of the engine: bit sequences, the five lines, pin events. -/

namespace Sys2Proof

/-- A 32-bit address, index or data word (00_scope R8: `ADDR_W` = `DATA_W` = 32). -/
abbrev Word := BitVec 32

/-- A 16-bit command word (00_scope R8: `CMD_W` = 16). -/
abbrev CmdWord := BitVec 16

/-- A BitSequence (00_scope R12): a value with its explicit width. Two are equal when both are. -/
structure BitSeq where
  width : Nat
  value : BitVec width
  deriving DecidableEq, Repr

/-- The four lines the engine drives (10_state R24). `WR(DSO, b)` cannot be written (40_bit_engine R101). -/
inductive OutLine
  | dsi | dsclk | bkpt | reset
  deriving DecidableEq, Repr

/-- The five lines (10_state R20). -/
inductive Line
  | dsi | dso | dsclk | bkpt | reset
  deriving DecidableEq, Repr

/-- A line's direction (40_bit_engine R100). -/
inductive Dir
  | input | output
  deriving DecidableEq, Repr

/-- The duration parameter a `DLY` event names (40_bit_engine R104). -/
inductive DelayParam
  | setup | clkHigh | clkLow | resetHold | resetSettle | bkptHold
  deriving DecidableEq, Repr

/-- One pin event of a trace (00_scope R13, R14). `rd` is `RD(DSO)` with the level read: no rule reads
another line (40_bit_engine R102). -/
inductive Event
  | dir (p : Line) (d : Dir)
  | wr (p : OutLine) (b : Bool)
  | rd (b : Bool)
  | dly (k : DelayParam)
  deriving DecidableEq, Repr

/-- The data width W of a response frame, 16 or 32 (30_encoding R75, R81). -/
inductive RespWidth
  | w16 | w32
  deriving DecidableEq, Repr, Inhabited

/-- W as a number. -/
def RespWidth.bits : RespWidth → Nat
  | .w16 => 16
  | .w32 => 32

end Sys2Proof
end

