-- ==== Sys2Proof/Config.lean ====
section
/-! DEFINITION. The configuration (00_scope R8, R9, R10; 10_state R21) and the free values. -/

namespace Sys2Proof

/-- `PINMAP`: the physical line each logical line is bound to (00_scope R8; owned by the configuration layer). -/
structure PinMap where
  dsi   : Nat
  dso   : Nat
  dsclk : Nat
  bkpt  : Nat
  reset : Nat
  deriving DecidableEq, Repr

/-- The physical line of a logical line (40_bit_engine R100). -/
def PinMap.physical (m : PinMap) : Line → Nat
  | .dsi => m.dsi
  | .dso => m.dso
  | .dsclk => m.dsclk
  | .bkpt => m.bkpt
  | .reset => m.reset

/-- The physical lines in the order DSI, DSO, DSCLK, BKPT, RESET. -/
def PinMap.lines (m : PinMap) : List Nat := [m.dsi, m.dso, m.dsclk, m.bkpt, m.reset]

/-- Every parameter of 00_scope R8 that the document leaves open. The fixed widths (16, 32, 32) are in the types.
Durations are counted in a unit the model leaves open; no rule reads one (70_reset_and_hazards R214). -/
structure Config where
  regIdxW       : Nat
  regCount      : Nat
  opcReadMem32  : CmdWord
  opcWriteMem32 : CmdWord
  opcReadReg    : CmdWord
  opcWriteReg   : CmdWord
  opcEnterDebug : CmdWord
  opcPoll       : CmdWord
  enterAck      : BitVec 16
  retryMax      : Nat
  /-- `SYNC_PATTERN` with its width `SYNC_PAT_W`. -/
  syncPattern   : BitSeq
  /-- `SYNC_RESPONSE` with its width `SYNC_RESP_W`. -/
  syncResponse  : BitSeq
  syncMaxCycles : Nat
  resetActive   : Bool
  bkptActive    : Bool
  tSetup        : Nat
  tClkHigh      : Nat
  tClkLow       : Nat
  tResetHold    : Nat
  tResetSettle  : Nat
  tBkptHold     : Nat
  pinmap        : PinMap
  deriving DecidableEq, Repr

/-- The low `REG_IDX_W` bits of a command word, as a number: the index field of format CWR (30_encoding R72). -/
def Config.indexField (c : Config) (w : CmdWord) : Nat := w.toNat % 2 ^ c.regIdxW

/-- Is `w` one of the words `{opc | i : i < REG_COUNT}` (00_scope R9), for an `opc` whose index bits are zero? -/
def Config.isRegWord (c : Config) (opc w : CmdWord) : Bool :=
  decide (w.toNat - c.indexField w = opc.toNat) && decide (c.indexField w < c.regCount)

/-- The four command words without an index field (30_encoding R71). -/
def Config.plainWords (c : Config) : List CmdWord :=
  [c.opcReadMem32, c.opcWriteMem32, c.opcEnterDebug, c.opcPoll]

/-- The well-formed parameter sets: the constraints column of 00_scope R8 and the list of R9. Disjointness of the
six sets of command words is told word by word; the two register sets are disjoint iff their opcodes differ, since
both have index bits zero. -/
def Config.wf (c : Config) : Bool :=
  decide (1 ≤ c.regIdxW) && decide (c.regIdxW ≤ 16) &&
  decide (1 ≤ c.regCount) && decide (c.regCount ≤ 2 ^ c.regIdxW) &&
  decide (c.indexField c.opcReadReg = 0) && decide (c.indexField c.opcWriteReg = 0) &&
  decide c.plainWords.Nodup &&
  c.plainWords.all (fun w => !c.isRegWord c.opcReadReg w && !c.isRegWord c.opcWriteReg w) &&
  decide (c.opcReadReg ≠ c.opcWriteReg) &&
  decide (1 ≤ c.syncPattern.width) && decide (c.syncPattern.width ≤ 32) &&
  decide (1 ≤ c.syncResponse.width) && decide (c.syncResponse.width ≤ 32) &&
  decide (c.syncResponse.width ≤ c.syncMaxCycles) &&
  decide (0 < c.tClkHigh) && decide (0 < c.tClkLow) && decide (0 < c.tResetHold) && decide (0 < c.tBkptHold) &&
  decide c.pinmap.lines.Nodup

/-- Profile P0 (00_scope R10), the values of R8's P0 column. That column gives the durations as "symbolic" and
PINMAP no value: the numbers here are DESIGN CHOICE (assumption log, entry 2) and no rule reads them. -/
def Config.p0 : Config where
  regIdxW       := 4
  regCount      := 16
  opcReadMem32  := 0x1980
  opcWriteMem32 := 0x1880
  opcReadReg    := 0x2180
  opcWriteReg   := 0x2080
  opcEnterDebug := 0x3F00
  opcPoll       := 0x0000
  enterAck      := 0xFFFF
  retryMax      := 3
  syncPattern   := ⟨8, 0xA5⟩
  syncResponse  := ⟨8, 0x5A⟩
  syncMaxCycles := 16
  resetActive   := false
  bkptActive    := false
  tSetup        := 1
  tClkHigh      := 1
  tClkLow       := 1
  tResetHold    := 1
  tResetSettle  := 1
  tBkptHold     := 1
  pinmap        := ⟨0, 1, 2, 3, 4⟩

/-- FREE VALUE (assumption log, entry 3). The level the target presents at an `RD(DSO)` that no listed answer
covers, as a function of everything the target has seen, the trace so far with the newest event first
(10_state R26; 92 D31: the target is an oracle that sees every event). -/
opaque Config.targetLevel : List Event → Bool

/-- FREE VALUE (assumption log, entry 7). The W of a poll that no unanswered command precedes, which
42_command_framer R152 says never happens; a function of the trace so far. -/
opaque Config.unpendedPollWidth : List Event → RespWidth

end Sys2Proof
end

