-- ==== Sys2Proof/Syntax.lean ====
section
/-! DEFINITION. The instructions: the eight host operations and the six wire commands. -/

namespace Sys2Proof

/-- The Command type: closed, exactly six constructors (30_encoding R75). -/
inductive Command
  | readMem32 (a : Word)
  | writeMem32 (a d : Word)
  | readReg (i : Word)
  | writeReg (i d : Word)
  | enterDebug
  | poll
  deriving DecidableEq, Repr

/-- One constructor per row of spec/opcode_table.json: the host operations of 30_encoding R88, then the wire
commands of R75 as the framer runs them. -/
inductive Instr
  /-- RESET_TARGET (41_sync_reset R120). -/
  | resetTarget
  /-- SYNC (41_sync_reset R122). -/
  | sync
  /-- ENTER_DEBUG (41_sync_reset R125). -/
  | enterDebug
  /-- READ_MEM32 (43_access_layer R161). -/
  | readMem32 (a : Word)
  /-- WRITE_MEM32 (43_access_layer R163). -/
  | writeMem32 (a d : Word)
  /-- READ_REG (43_access_layer R165). -/
  | readReg (i : Word)
  /-- WRITE_REG (43_access_layer R167). -/
  | writeReg (i d : Word)
  /-- DISCONNECT (41_sync_reset R127). -/
  | disconnect
  /-- CMD_READ_MEM32 (42_command_framer R147). -/
  | cmdReadMem32 (a : Word)
  /-- CMD_WRITE_MEM32 (42_command_framer R148). -/
  | cmdWriteMem32 (a d : Word)
  /-- CMD_READ_REG (42_command_framer R149). -/
  | cmdReadReg (i : Word)
  /-- CMD_WRITE_REG (42_command_framer R150). -/
  | cmdWriteReg (i d : Word)
  /-- CMD_ENTER_DEBUG (42_command_framer R151). -/
  | cmdEnterDebug
  /-- CMD_POLL (42_command_framer R152). -/
  | cmdPoll
  deriving DecidableEq, Repr

/-- The instruction that runs a command by itself. -/
def Command.toInstr : Command → Instr
  | .readMem32 a => .cmdReadMem32 a
  | .writeMem32 a d => .cmdWriteMem32 a d
  | .readReg i => .cmdReadReg i
  | .writeReg i d => .cmdWriteReg i d
  | .enterDebug => .cmdEnterDebug
  | .poll => .cmdPoll

/-- A host request `{OP, A, D}` (30_encoding R87). -/
structure Request where
  op : BitVec 4
  a  : Word
  d  : Word
  deriving DecidableEq, Repr

end Sys2Proof
end

