-- ==== Sys2Proof/WellFormed.lean ====
section
/-! DEFINITION. The well-formed instructions: the operand conditions of the wire commands. -/

namespace Sys2Proof

/-- The terms that the encodings of 30_encoding spell. A host request may carry any `A` and `D` (R87: a bad operand
is an error result, not an ill-formed request). A wire command's operands meet the conditions of 42_command_framer
R147 to R150: an aligned address, an index below `REG_COUNT`. -/
def Instr.wf (c : Config) : Instr → Bool
  | .resetTarget => true
  | .sync => true
  | .enterDebug => true
  | .readMem32 _ => true
  | .writeMem32 _ _ => true
  | .readReg _ => true
  | .writeReg _ _ => true
  | .disconnect => true
  | .cmdReadMem32 a => decide (a.toNat % 4 = 0)
  | .cmdWriteMem32 a _ => decide (a.toNat % 4 = 0)
  | .cmdReadReg i => decide (i.toNat < c.regCount)
  | .cmdWriteReg i _ => decide (i.toNat < c.regCount)
  | .cmdEnterDebug => true
  | .cmdPoll => true

end Sys2Proof
end

