-- ==== Sys2Proof/Decode.lean ====
section
/-! DEFINITION. The encodings of 30_encoding: bits on the wire, frames, host request tags; decoder and encoder. -/

namespace Sys2Proof

/-! ### Bits in wire order -/

/-- Bits `k-1` down to 0 of `v`, the most significant first (00_scope R12, 20_memory R55). -/
def bitsDown {n : Nat} (v : BitVec n) : Nat → List Bool
  | 0 => []
  | k + 1 => v.getLsbD k :: bitsDown v k

/-- The wire order of a BitSequence: most significant bit first (00_scope R12). -/
def wireBits (b : BitSeq) : List Bool := bitsDown b.value b.width

/-- `(v << 1) | b` within the width of `v` (00_scope R11). -/
def pushBit {n : Nat} (v : BitVec n) (b : Bool) : BitVec n := (v <<< 1) ||| (BitVec.ofBool b).setWidth n

/-- The `n`-bit value of a list of bits, the first the most significant. -/
def ofWire (n : Nat) (bits : List Bool) : BitVec n := bits.foldl pushBit 0#n

/-! ### Frames -/

/-- The command word of a command: `OPC` for format CW0 (30_encoding R71), `OPC | zext_16(i)` for CWR (R72). -/
def commandWord (c : Config) : Command → CmdWord
  | .readMem32 _ => c.opcReadMem32
  | .writeMem32 _ _ => c.opcWriteMem32
  | .readReg i => c.opcReadReg ||| i.setWidth 16
  | .writeReg i _ => c.opcWriteReg ||| i.setWidth 16
  | .enterDebug => c.opcEnterDebug
  | .poll => c.opcPoll

/-- The operand fields that follow the command word, each 32 bits (30_encoding R76, R77, R78). -/
def operands : Command → List Word
  | .readMem32 a => [a]
  | .writeMem32 a d => [a, d]
  | .readReg _ => []
  | .writeReg _ d => [d]
  | .enterDebug => []
  | .poll => []

/-- The frame of a command: the command word, then its operands (30_encoding R74, R76). -/
def frame (c : Config) (cmd : Command) : List BitSeq :=
  ⟨16, commandWord c cmd⟩ :: (operands cmd).map (fun v => ⟨32, v⟩)

/-- The bits of a frame as they follow each other on DSI (30_encoding R74). -/
def frameBits (c : Config) (cmd : Command) : List Bool := (frame c cmd).flatMap wireBits

/-! ### Decoding -/

/-- Why the decoder answers no instruction. -/
inductive DecodeRefusal
  /-- A host tag 0x8 to 0xF: no operation (30_encoding R88). -/
  | reservedOp (op : BitVec 4)
  /-- A word outside 30_encoding R76: it has no meaning in the spec (R79). -/
  | unknownCommandWord (w : CmdWord)
  /-- Fewer bits than the command's fixed frame length (30_encoding R80). -/
  | truncatedFrame
  /-- A memory command whose address is no multiple of 4: the engine has no such frame (42_command_framer R147,
  R148: the address is checked before the command is formed). -/
  | misalignedFrame (a : Word)
  deriving DecidableEq, Repr

/-- What the decoder answers: an instruction with the bits after it, or a refusal by name. -/
inductive Decoded
  | instr (i : Instr) (rest : List Bool)
  | refused (r : DecodeRefusal)
  deriving DecidableEq, Repr

/-- The instruction of a decoder's answer, if it gave one. -/
def Decoded.instr? : Decoded → Option Instr
  | .instr i _ => some i
  | .refused _ => none

/-- A host request read by its tag (30_encoding R88). A field the operation does not use is dropped (R87). -/
def decodeRequest (r : Request) : Decoded :=
  match r.op.toNat with
  | 0 => .instr .resetTarget []
  | 1 => .instr .sync []
  | 2 => .instr .enterDebug []
  | 3 => .instr (.readMem32 r.a) []
  | 4 => .instr (.writeMem32 r.a r.d) []
  | 5 => .instr (.readReg r.a) []
  | 6 => .instr (.writeReg r.a r.d) []
  | 7 => .instr .disconnect []
  | _ => .refused (.reservedOp r.op)

/-- What a command word says comes next: which command, and its index where the word holds one. -/
inductive WordClass
  | readMem32 | writeMem32 | enterDebug | poll
  | readReg (i : Word)
  | writeReg (i : Word)
  | unknown
  deriving DecidableEq, Repr

/-- The index of a CWR word: its low `REG_IDX_W` bits, zero-extended (30_encoding R72, R73). -/
def wordIndex (c : Config) (w : CmdWord) : Word := BitVec.ofNat 32 (w.toNat % 2 ^ c.regIdxW)

/-- `w` has the opcode bits of `opc` and an index below `REG_COUNT` (30_encoding R72). -/
def hasOpcode (c : Config) (opc w : CmdWord) : Bool :=
  decide (w.toNat / 2 ^ c.regIdxW = opc.toNat / 2 ^ c.regIdxW) && decide (w.toNat % 2 ^ c.regIdxW < c.regCount)

/-- A command word read by the opcode map (30_encoding R86, with the parameters of `c`). -/
def classify (c : Config) (w : CmdWord) : WordClass :=
  if w = c.opcReadMem32 then .readMem32
  else if w = c.opcWriteMem32 then .writeMem32
  else if w = c.opcEnterDebug then .enterDebug
  else if w = c.opcPoll then .poll
  else if hasOpcode c c.opcReadReg w then .readReg (wordIndex c w)
  else if hasOpcode c c.opcWriteReg w then .writeReg (wordIndex c w)
  else .unknown

/-- The next `n` bits as a value, with the bits after them. -/
def takeField (n : Nat) (bits : List Bool) : Option (BitVec n × List Bool) :=
  if bits.length < n then none else some (ofWire n (bits.take n), bits.drop n)

/-- A command frame read from bits in wire order, total on any bits (30_encoding R71 to R80). -/
def decodeFrame (c : Config) (bits : List Bool) : Decoded :=
  match takeField 16 bits with
  | none => .refused .truncatedFrame
  | some (w, bits1) =>
    match classify c w with
    | .readMem32 =>
      match takeField 32 bits1 with
      | none => .refused .truncatedFrame
      | some (a, rest) => if a.toNat % 4 = 0 then .instr (.cmdReadMem32 a) rest else .refused (.misalignedFrame a)
    | .writeMem32 =>
      match takeField 32 bits1 with
      | none => .refused .truncatedFrame
      | some (a, bits2) =>
        match takeField 32 bits2 with
        | none => .refused .truncatedFrame
        | some (d, rest) =>
          if a.toNat % 4 = 0 then .instr (.cmdWriteMem32 a d) rest else .refused (.misalignedFrame a)
    | .readReg i => .instr (.cmdReadReg i) bits1
    | .writeReg i =>
      match takeField 32 bits1 with
      | none => .refused .truncatedFrame
      | some (d, rest) => .instr (.cmdWriteReg i d) rest
    | .enterDebug => .instr .cmdEnterDebug bits1
    | .poll => .instr .cmdPoll bits1
    | .unknown => .refused (.unknownCommandWord w)

/-- The two encodings: a host request, or the bits of a command frame in wire order. -/
inductive Encoded
  | request (r : Request)
  | frame (bits : List Bool)
  deriving DecidableEq, Repr

/-- The decoder. -/
def decode (c : Config) : Encoded → Decoded
  | .request r => decodeRequest r
  | .frame bits => decodeFrame c bits

/-! ### Encoding -/

/-- The encoder: tags from 30_encoding R88, frames from R76. A request field the operation does not use is 0. -/
def encode (c : Config) : Instr → Encoded
  | .resetTarget => .request ⟨0x0, 0, 0⟩
  | .sync => .request ⟨0x1, 0, 0⟩
  | .enterDebug => .request ⟨0x2, 0, 0⟩
  | .readMem32 a => .request ⟨0x3, a, 0⟩
  | .writeMem32 a d => .request ⟨0x4, a, d⟩
  | .readReg i => .request ⟨0x5, i, 0⟩
  | .writeReg i d => .request ⟨0x6, i, d⟩
  | .disconnect => .request ⟨0x7, 0, 0⟩
  | .cmdReadMem32 a => .frame (frameBits c (.readMem32 a))
  | .cmdWriteMem32 a d => .frame (frameBits c (.writeMem32 a d))
  | .cmdReadReg i => .frame (frameBits c (.readReg i))
  | .cmdWriteReg i d => .frame (frameBits c (.writeReg i d))
  | .cmdEnterDebug => .frame (frameBits c .enterDebug)
  | .cmdPoll => .frame (frameBits c .poll)

/-! ### The opcode table's numbering (assumption log, entry 5) -/

/-- Bits `lo` to `lo + n - 1` of a number. -/
def natField (n lo w : Nat) : BitVec n := BitVec.ofNat n (w / 2 ^ lo)

/-- A host request as the table numbers it: `OP` the first word, bits 3..0; then `A`, bits 35..4; then `D`, bits
67..36. -/
def tableRequest (w : Nat) : Request := ⟨natField 4 0 w, natField 32 4 w, natField 32 36 w⟩

/-- A command frame as the table numbers it: the command word, bits 15..0; then the first operand, bits 47..16;
then the second, bits 79..48; laid out in wire order. -/
def tableFrame (w : Nat) : List Bool :=
  wireBits ⟨16, natField 16 0 w⟩ ++ wireBits ⟨32, natField 32 16 w⟩ ++ wireBits ⟨32, natField 32 48 w⟩

/-- A row of fewer than 16 bits is a host tag, the others are command words (opcode_table.json: formats HOST, and
CW0 or CWR). Bits above `nbits` are zero. -/
def tableEncoded (nbits w : Nat) : Encoded :=
  if nbits < 16 then .request (tableRequest (w % 2 ^ nbits)) else .frame (tableFrame (w % 2 ^ nbits))

/-- The instruction the decoder reads from an instruction whose bits are `w`, in profile P0, whose command words
are the table's. -/
def decodeTableWord (nbits w : Nat) : Option Instr := (decode Config.p0 (tableEncoded nbits w)).instr?

end Sys2Proof
end

