-- ==== Sys2Proof/Machine/State.lean ====
section
/-! DEFINITION. The engine's state, its inputs, and the ways a step can stop. -/

namespace Sys2Proof.Machine

/-- `TS` (10_state R22): the engine's belief about the target (R34). -/
inductive TargetState
  | unknown | reset | synchronized | debugMode
  deriving DecidableEq, Repr

/-- The outputs the host can read (10_state R36). -/
inductive HostPort
  | ts | busy | kind | cause | data
  deriving DecidableEq, Repr

/-- What may happen from outside while an operation or the engine reset sequence runs: engine reset
(70_reset_and_hazards R200: at any time), the host reading an output (10_state R36: at any time), the host presenting
a request against its duty (R206), a second engine being configured (60_exceptions R193). -/
inductive Meanwhile
  | engineReset (c : Config)
  | hostRead (p : HostPort)
  | request (r : Request)
  | attachEngine (m : PinMap)
  deriving DecidableEq, Repr

/-- Something that happens once `after` more events are emitted, counted from the happening before it, or from the
start of what runs (assumption log, entry 10). -/
structure Happening where
  after : Nat
  what  : Meanwhile
  deriving DecidableEq, Repr

/-- One input from outside the engine. A step serves one (assumption log, entry 4). -/
inductive Input
  /-- A host request (30_encoding R87). -/
  | request (r : Request)
  /-- A host request that the host presents only if the last `RESULT.KIND` is OK: the second and third request of
  `connect` (30_encoding R93). -/
  | requestIfOk (r : Request)
  /-- A host request, and what happens while it runs, in order (assumption log, entry 10). -/
  | requestDuring (r : Request) (l : List Happening)
  /-- A wire command's bits handed to the framer on its own. No host can do this (00_scope R15): it is how the
  model runs one row of the opcode table's wire commands, in the `TS` its callers run in (40_bit_engine R110;
  assumption log, entry 6). -/
  | frame (bits : List Bool)
  /-- Engine reset with a configuration (70_reset_and_hazards R200). -/
  | engineReset (c : Config)
  /-- Engine reset, and what happens while its sequence runs, in order (R200, 10_state R28). -/
  | resetDuring (c : Config) (l : List Happening)
  /-- The host reads an output (10_state R36). -/
  | hostRead (p : HostPort)
  /-- A second engine instance is configured on the lines of `m` (60_exceptions R193). -/
  | attachEngine (m : PinMap)
  deriving DecidableEq, Repr

/-- What the framer hands to its caller (42_command_framer R140): NONE, DATA(d) or TIMEOUT; and for a poll run by
itself the raw response frame that the enclosing `RecvResponse` would look at (R146, R152). -/
inductive FramerRet
  | nothing
  | data (d : BitSeq)
  | timeout
  | response (r : BitSeq)
  deriving DecidableEq, Repr

/-- Why the machine stops with no next state. -/
inductive Fault
  /-- The host reads a `RESULT` field that holds no value (10_state R30, 60_exceptions R196). Raised by a host
  read. Safe: no claim can lean on a value the spec denies. -/
  | noValue (p : HostPort)
  /-- The host reads a `RESULT.KIND` of 8 to 15 (93_implementation_defined I18). Raised by a host read; no state
  that the engine reaches holds one. Safe. -/
  | reservedKind (k : BitVec 4)
  /-- A request presented while `BUSY` = 1 has no move (70_reset_and_hazards R206, I16): a stuck state. Raised by
  the request port. Safe: nothing is said of what the engine would do. -/
  | requestWhileBusy
  deriving DecidableEq, Repr

/-- Why the machine takes no step. -/
inductive Refusal
  /-- An instruction without a meaning. Raised by `exec`'s refused arms only; there is none. Safe. -/
  | notModelled (mnemonic : String)
  /-- The bits presented are no instruction (30_encoding R88, R79, R80). Raised by the request port and the frame
  port. Safe: the spec gives such bits no meaning. -/
  | decode (r : DecodeRefusal)
  /-- Engine reset with a parameter set that breaks 00_scope R9 (I20). Raised by engine reset. Safe. -/
  | illFormedConfig
  /-- Two engines on one line (60_exceptions R193, I14). Raised by `attachEngine`, and by engine reset with a
  `PINMAP` that takes a line of an engine attached before. Safe. -/
  | sharedLines
  /-- A wire command in a `TS` in which no rule calls the framer for it (40_bit_engine R110). Raised by the frame
  port. Safe: the spec has no such command traffic. -/
  | framerNotCalled (ts : TargetState)
  deriving DecidableEq, Repr

/-- The state of the engine (10_state R20), its configuration (R21), and the model's own record of what is
outside it: the trace, the target's answers, the host's inputs and reads, the other engines. -/
structure State where
  /-- Configuration, taken at engine reset (R21). -/
  cfg      : Config
  /-- `TS` (R22). -/
  ts       : TargetState
  /-- `LV[DSI]` (R24). -/
  lvDsi    : Bool
  /-- `LV[DSCLK]` (R24). -/
  lvDsclk  : Bool
  /-- `LV[BKPT]` (R24). -/
  lvBkpt   : Bool
  /-- `LV[RESET]` (R24). -/
  lvReset  : Bool
  /-- `DIRN[DSI]` (R25). -/
  dirDsi   : Dir
  /-- `DIRN[DSO]` (R25). -/
  dirDso   : Dir
  /-- `DIRN[DSCLK]` (R25). -/
  dirDsclk : Dir
  /-- `DIRN[BKPT]` (R25). -/
  dirBkpt  : Dir
  /-- `DIRN[RESET]` (R25). -/
  dirReset : Dir
  /-- `BUSY` (R28). -/
  busy     : Bool
  /-- `RESULT.KIND` (R29); no value after engine reset (R37). -/
  resKind  : Option (BitVec 4)
  /-- `RESULT.CAUSE` (R29); no value after engine reset (R37). -/
  resCause : Option (BitVec 4)
  /-- `RESULT.DATA` (R30); holds a value in the cases of R30 only. -/
  resData  : Option Word
  /-- `SH`, shift accumulator (R31). -/
  sh       : BitVec 33
  /-- `NBIT`, bits left in a shift (R31). -/
  nbit     : Nat
  /-- `POLLS`, polls sent (R31). -/
  polls    : Nat
  /-- `WIN`, SYNC hunting window, `SYNC_RESP_W` bits zero-extended (R31). -/
  win      : Word
  /-- `CYC`, SYNC hunting cycles (R31). -/
  cyc      : Nat
  /-- `CMDW`, command word being sent (R31). -/
  cmdw     : CmdWord
  /-- `OPA`, address operand or register index (R31). -/
  opa      : Word
  /-- `OPD`, data operand (R31). -/
  opd      : Word
  /-- W of the read-class command whose valid response has not come yet (42_command_framer R152). -/
  pend     : Option RespWidth
  /-- What the last command run by itself returned (42_command_framer R140). The model's own field. -/
  framerRet : Option FramerRet
  /-- The pin events so far, newest first (00_scope R14). -/
  trace    : List Event
  /-- The target's next answers on DSO; past them every answer is free (10_state R26). The model's own field. -/
  dso      : List Bool
  /-- The inputs the engine meets next. The model's own field. -/
  inbox    : List Input
  /-- The values the host's reads of outputs gave, newest first (10_state R36). The model's own field. -/
  hostSees : List Word
  /-- The lines of the other engines configured so far (60_exceptions R193; 10_state R35). The model's own field. -/
  others   : List PinMap
  deriving DecidableEq, Repr

/-- The machine right after engine reset with configuration `c` (10_state R37): lines idle and released, RESULT
with no value, and the nine events of 70_reset_and_hazards R200 in the trace, newest first. The transient
registers' zeros are DESIGN CHOICE (assumption log, entry 8): the spec leaves them unspecified. -/
def State.resetWith (c : Config) : State where
  cfg      := c
  ts       := .unknown
  lvDsi    := false
  lvDsclk  := false
  lvBkpt   := !c.bkptActive
  lvReset  := !c.resetActive
  dirDsi   := .output
  dirDso   := .input
  dirDsclk := .output
  dirBkpt  := .output
  dirReset := .output
  busy     := false
  resKind  := none
  resCause := none
  resData  := none
  sh       := 0
  nbit     := 0
  polls    := 0
  win      := 0
  cyc      := 0
  cmdw     := 0
  opa      := 0
  opd      := 0
  pend     := none
  framerRet := none
  trace    := [.dir .dso .input, .dir .reset .output, .dir .bkpt .output, .dir .dsi .output, .dir .dsclk .output,
               .wr .reset (!c.resetActive), .wr .bkpt (!c.bkptActive), .wr .dsi false, .wr .dsclk false]
  dso      := []
  inbox    := []
  hostSees := []
  others   := []

/-- The machine right after engine reset in profile P0 (assumption log, entry 1). -/
def State.reset : State := State.resetWith Config.p0

end Sys2Proof.Machine
end

