-- ==== Sys2Proof/Machine/Ops.lean ====
section
/-! DEFINITION. The operations on pins and on the response: DIR, WR, RD, DLY, ending an operation, engine reset. -/

namespace Sys2Proof

/-- Do two bindings share a physical line (60_exceptions R193)? -/
def PinMap.shares (m m' : PinMap) : Bool := m.lines.any (fun l => m'.lines.contains l)

end Sys2Proof

namespace Sys2Proof.Machine

/-! ### Pin primitives (40_bit_engine R100 to R102, R104) -/

/-- The level of output line `p` after an event. -/
def levelAfter (e : Event) (p : OutLine) (old : Bool) : Bool :=
  match e with
  | .wr q b => if q = p then b else old
  | _ => old

/-- The direction of line `p` after an event. -/
def dirAfter (e : Event) (p : Line) (old : Dir) : Dir :=
  match e with
  | .dir q d => if q = p then d else old
  | _ => old

/-- The target's listed answers after an event: an `RD` takes one. -/
def answersAfter (e : Event) (old : List Bool) : List Bool :=
  match e with
  | .rd _ => old.tail
  | _ => old

/-- One event happens: it joins the trace and takes its effect on latches, directions and answers. -/
def emit (e : Event) (s : State) : State :=
  { s with
    lvDsi := levelAfter e .dsi s.lvDsi
    lvDsclk := levelAfter e .dsclk s.lvDsclk
    lvBkpt := levelAfter e .bkpt s.lvBkpt
    lvReset := levelAfter e .reset s.lvReset
    dirDsi := dirAfter e .dsi s.dirDsi
    dirDso := dirAfter e .dso s.dirDso
    dirDsclk := dirAfter e .dsclk s.dirDsclk
    dirBkpt := dirAfter e .bkpt s.dirBkpt
    dirReset := dirAfter e .reset s.dirReset
    dso := answersAfter e s.dso
    trace := e :: s.trace }

/-- Events in order, the first of the list first. -/
def emits : List Event → State → State
  | [], s => s
  | e :: es, s => emits es (emit e s)

/-- `DIR(p, d)` (R100). -/
def dir (p : Line) (d : Dir) (s : State) : State := emit (.dir p d) s

/-- `WR(p, b)` (R101): emitted even when the level does not change. -/
def wr (p : OutLine) (b : Bool) (s : State) : State := emit (.wr p b) s

/-- `DLY(k)` (R104): an ordering mark; it drives nothing and samples nothing. -/
def dly (k : DelayParam) (s : State) : State := emit (.dly k) s

/-- The level the target presents now: its next listed answer, else a free value (10_state R26). -/
def dsoLevel (s : State) : Bool :=
  match s.dso with
  | b :: _ => b
  | [] => Config.targetLevel s.trace

/-- `b <- RD(DSO)` (R102): the level, and the state after the event. -/
def rd (s : State) : Bool × State := (dsoLevel s, emit (.rd (dsoLevel s)) s)

/-- The level at which RESET or BKPT is asserted, and for the other lines 1 (00_scope R8, 10_state R24). -/
def assertedLevel (c : Config) : OutLine → Bool
  | .reset => c.resetActive
  | .bkpt => c.bkptActive
  | .dsi => true
  | .dsclk => true

/-- Drive a control line to its asserted level (41_sync_reset R121, R124). -/
def assertLine (p : OutLine) (s : State) : State := wr p (assertedLevel s.cfg p) s

/-- Drive a control line to its released level: it is driven, not floated (10_state R25). -/
def releaseLine (p : OutLine) (s : State) : State := wr p (!assertedLevel s.cfg p) s

/-! ### The events of an operation -/

/-- The events by which the trace of `t` extends that of `s`, in order (00_scope R14). -/
def opTrace (s t : State) : List Event := (t.trace.take (t.trace.length - s.trace.length)).reverse

/-! ### Engine reset (70_reset_and_hazards R200) -/

/-- The initialisation sequence: levels before directions (R200). -/
def resetEvents (c : Config) : List Event :=
  [.wr .dsclk false, .wr .dsi false, .wr .bkpt (!c.bkptActive), .wr .reset (!c.resetActive),
   .dir .dsclk .output, .dir .dsi .output, .dir .bkpt .output, .dir .reset .output, .dir .dso .input]

/-- The start of the engine reset sequence: configuration `c` is taken and `BUSY` becomes 1 (R200, 10_state R28). -/
def resetStart (c : Config) (s : State) : State := { s with cfg := c, busy := true }

/-- The end of the engine reset sequence, after its events: `TS`, `RESULT` and `BUSY` (R200). -/
def resetFinish (s : State) : State :=
  { s with
    ts := .unknown
    resKind := none
    resCause := none
    resData := none
    pend := none
    framerRet := none
    busy := false }

/-- Engine reset taking configuration `c`. The transient registers, which R37 leaves unspecified, are not touched;
what the host has read, the inputs still to come and the other engines are not the engine's. -/
def engineReset (c : Config) (s : State) : State := resetFinish (emits (resetEvents c) (resetStart c s))

/-- The state once `n` events of what leads from `s` to `t` are emitted, an operation or (from `resetStart`) the engine
reset sequence. Until its last event and the writing of its results (n up to their number) it runs: `BUSY` is 1, and
`TS` and `RESULT`, which every rule writes after its last event, are as before (10_state R28, R29;
70_reset_and_hazards R200). After that it is `t`. DEDUCED (assumption log, entry 10). -/
def midway (n : Nat) (s t : State) : State :=
  if n ≤ (opTrace s t).length then { emits ((opTrace s t).take n) s with busy := true } else t

end Sys2Proof.Machine
end

