-- ==== Sys2Proof/Machine/Flags.lean ====
section
/-! DEFINITION. The status outputs: `TS`, `BUSY`, `RESULT` (10_state R32), their codes, how an operation ends. -/

namespace Sys2Proof.Machine

/-- The 2-bit code of `TS` (10_state R22). -/
def TargetState.code : TargetState → BitVec 2
  | .unknown => 0b00
  | .reset => 0b01
  | .synchronized => 0b10
  | .debugMode => 0b11

/-- The error kinds an operation writes (60_exceptions R180). COMMAND_TIMEOUT_ERROR, code 3, is never written as a
kind: it appears as a cause. -/
inductive Kind
  | ok | synchronizationError | debugModeEntryError | stateError | alignmentError | invalidRegisterError
  | memoryAccessError
  deriving DecidableEq, Repr

/-- The causes (60_exceptions R181). -/
inductive Cause
  | none | commandTimeout | stateError | refused
  deriving DecidableEq, Repr

/-- The 4-bit code of `RESULT.KIND` (60_exceptions R180). -/
def Kind.code : Kind → BitVec 4
  | .ok => 0
  | .synchronizationError => 1
  | .debugModeEntryError => 2
  | .stateError => 4
  | .alignmentError => 5
  | .invalidRegisterError => 6
  | .memoryAccessError => 7

/-- The 4-bit code of `RESULT.CAUSE` (60_exceptions R181). -/
def Cause.code : Cause → BitVec 4
  | .none => 0
  | .commandTimeout => 3
  | .stateError => 4
  | .refused => 8

/-- The engine accepts a request: `BUSY` becomes 1 (10_state R28). -/
def accept (s : State) : State := { s with busy := true }

/-- The operation ends: `RESULT` is written once, whole, and `BUSY` becomes 0 (10_state R28 to R30). -/
def respond (k : Kind) (c : Cause) (d : Option Word) (s : State) : State :=
  { s with resKind := some k.code, resCause := some c.code, resData := d, busy := false }

/-- `return OK`, with the word received where the operation reads one (00_scope R13, 10_state R30). -/
def returnOk (d : Option Word) (s : State) : State := respond .ok .none d s

/-- `raise k(c)` (00_scope R13, 41_sync_reset): taking an error. It is a result, not a trap: nothing is saved, no
handler runs, and nothing returns from it (60_exceptions R183, R186, R187). -/
def raise (k : Kind) (c : Cause) (s : State) : State := respond k c none s

/-- `raise k(c)` where a word was put in `RESULT.DATA` first: the refused ENTER_DEBUG (41_sync_reset R126). -/
def raiseWith (k : Kind) (c : Cause) (d : Word) (s : State) : State := respond k c (some d) s

/-- `TS` changes (10_state R23). -/
def setTs (x : TargetState) (s : State) : State := { s with ts := x }

/-- What a host read of an output gives (10_state R36), zero-extended to 32 bits. A `RESULT` field with no value
faults (R30, 60_exceptions R196), as does a reserved kind (I18). -/
def hostValue (p : HostPort) (s : State) : Word ⊕ Fault :=
  match p with
  | .ts => .inl (s.ts.code.setWidth 32)
  | .busy => .inl ((BitVec.ofBool s.busy).setWidth 32)
  | .kind =>
    match s.resKind with
    | none => .inr (.noValue .kind)
    | some k => if k.toNat < 8 then .inl (k.setWidth 32) else .inr (.reservedKind k)
  | .cause =>
    match s.resCause with
    | none => .inr (.noValue .cause)
    | some c => .inl (c.setWidth 32)
  | .data =>
    match s.resData with
    | none => .inr (.noValue .data)
    | some d => .inl d

end Sys2Proof.Machine
end

