-- ==== Sys2Proof/Machine/Operands.lean ====
section
/-! DEFINITION. The operand checks of the access operations and the operands' way into the transient registers. -/

namespace Sys2Proof.Machine

/-- `A[1:0] = 0b00` (20_memory R52). -/
def aligned4 (a : Word) : Bool := a.extractLsb' 0 2 == 0#2

/-- `i < REG_COUNT`, read unsigned (20_memory R66). -/
def validIndex (c : Config) (i : Word) : Bool := decide (i.toNat < c.regCount)

/-- The address operand or register index of a command, if it has one (10_state R31: `OPA`). -/
def operandA : Command → Option Word
  | .readMem32 a => some a
  | .writeMem32 a _ => some a
  | .readReg i => some i
  | .writeReg i _ => some i
  | .enterDebug => none
  | .poll => none

/-- The data operand of a command, if it has one (10_state R31: `OPD`). -/
def operandD : Command → Option Word
  | .readMem32 _ => none
  | .writeMem32 _ d => some d
  | .readReg _ => none
  | .writeReg _ d => some d
  | .enterDebug => none
  | .poll => none

/-- The width of the data a command's response carries, for the commands with a response of their own
(30_encoding R75). A poll's is that of the command it polls for. -/
def responseWidth : Command → Option RespWidth
  | .readMem32 _ => some .w32
  | .writeMem32 _ _ => none
  | .readReg _ => some .w32
  | .writeReg _ _ => none
  | .enterDebug => some .w16
  | .poll => none

/-- The command's word and operands enter `CMDW`, `OPA` and `OPD` (42_command_framer R145). -/
def stage (cmd : Command) (s : State) : State :=
  { s with
    cmdw := commandWord s.cfg cmd
    opa := (operandA cmd).getD s.opa
    opd := (operandD cmd).getD s.opd
    pend := responseWidth cmd }

end Sys2Proof.Machine
end

