-- ==== Sys2Proof/Machine/BitEngine.lean ====
section
/-! DEFINITION. The clock generator and bit engine (40_bit_engine): Pulse, ShiftOut, ShiftIn. -/

namespace Sys2Proof.Machine

/-- The high phase every pulse has: rising edge, hold, falling edge. Both directions share it (R107). -/
def clockHigh (s : State) : State := wr .dsclk false (dly .clkHigh (wr .dsclk true s))

/-- `Pulse(false)` (R103). -/
def pulse (s : State) : State := dly .clkLow (clockHigh s)

/-- `Pulse(true)` (R103): DSO is sampled right after the falling edge, before the low time. -/
def pulseSample (s : State) : Bool × State :=
  let r := rd (clockHigh s)
  (r.1, dly .clkLow r.2)

/-- The loop of `ShiftOut` over bits `k-1` down to 0 (R105). `NBIT` counts the bits left. -/
def shiftOutBits (b : BitSeq) : Nat → State → State
  | 0, s => s
  | k + 1, s => shiftOutBits b k { pulse (dly .setup (wr .dsi (b.value.getLsbD k) s)) with nbit := k }

/-- `ShiftOut(v, n)` (R105). -/
def shiftOut (b : BitSeq) (s : State) : State := shiftOutBits b b.width { s with nbit := b.width }

/-- `((SH << 1) | b) mod 2^n` (R106). -/
def accumulate (n : Nat) (sh : BitVec 33) (b : Bool) : BitVec 33 := ((pushBit sh b).setWidth n).setWidth 33

/-- The loop of `ShiftIn` for the last `k` of `n` bits (R106). -/
def shiftInBits (n : Nat) : Nat → State → State
  | 0, s => s
  | k + 1, s =>
    let p := pulseSample s
    shiftInBits n k { p.2 with sh := accumulate n p.2.sh p.1, nbit := k }

/-- `ShiftIn(n)` (R106): DSI is held at 0, `n` bits come in, the first the most significant. `n` is at most 33. -/
def shiftIn (n : Nat) (s : State) : BitSeq × State :=
  let t := shiftInBits n n { dly .setup (wr .dsi false s) with sh := 0, nbit := n }
  (⟨n, t.sh.setWidth n⟩, t)

end Sys2Proof.Machine
end

