-- ==== Sys2Proof/Machine/Framer.lean ====
section
/-! DEFINITION. The command framer (42_command_framer): SendCommand, RecvResponse, the six wire commands. -/

namespace Sys2Proof.Machine

/-- Each field of a frame goes out through one `ShiftOut`, back to back (30_encoding R74). -/
def sendFrame : List BitSeq → State → State
  | [], s => s
  | b :: bs, s => sendFrame bs (shiftOut b s)

/-- `CMD_POLL`'s word goes out and a response frame of data width W comes in (R146, R152). -/
def pollOnce (w : RespWidth) (s : State) : BitSeq × State :=
  shiftIn (1 + w.bits) (sendFrame (frame s.cfg .poll) s)

/-- The status bit S of a response frame: 1 is the not-ready sentinel (30_encoding R81). -/
def notReady (w : RespWidth) (r : BitSeq) : Bool := r.value.getLsbD w.bits

/-- The data field of a response frame (30_encoding R81, R83). -/
def responseData (w : RespWidth) (r : BitSeq) : BitSeq := ⟨w.bits, r.value.setWidth w.bits⟩

/-- The loop of `RecvResponse` (R146), with `left` polls still allowed (`RETRY_MAX - POLLS`). The ceiling is looked
at only when another poll is needed. A valid response answers the pending command. -/
def pollLoop (w : RespWidth) : Nat → BitSeq × State → FramerRet × State
  | left, (r, s) =>
    if notReady w r then
      match left with
      | 0 => (.timeout, s)
      | left' + 1 => pollLoop w left' (pollOnce w { s with polls := s.polls + 1 })
    else (.data (responseData w r), { s with pend := none })

/-- `RecvResponse(W)` (R146). -/
def recvResponse (w : RespWidth) (s : State) : FramerRet × State :=
  let p := shiftIn (1 + w.bits) s
  pollLoop w p.2.cfg.retryMax (p.1, { p.2 with polls := 0 })

/-- `SendCommand(cmd)` (R145): the frame goes out; a read-class command's response is collected, a write-class
command reads nothing. `CMD_POLL` is not sent this way (R145): see `execCmdPoll`. -/
def sendCommand (cmd : Command) (s : State) : FramerRet × State :=
  let t := sendFrame (frame s.cfg cmd) (stage cmd s)
  match responseWidth cmd with
  | some w => recvResponse w t
  | none => (.nothing, t)

/-- A command run by itself: what the framer returns to its caller is kept in `framerRet` (assumption log, entry 6).
The framer writes no `TS` and no `RESULT` (R140) and checks no state (R141): in which `TS` it is called is its caller's
contract (40_bit_engine R110), which `serveFrame` keeps. -/
def runCommand (cmd : Command) (s : State) : State :=
  let r := sendCommand cmd s
  { r.2 with framerRet := some r.1 }

/-- W for a poll run by itself: that of the command not yet answered (R152); with none, free (entry 7). -/
def pollWidth (s : State) : RespWidth :=
  match s.pend with
  | some w => w
  | none => Config.unpendedPollWidth s.trace

/-- CMD_READ_MEM32 (R147). -/
def execCmdReadMem32 (a : Word) (s : State) : Host.Outcome State Fault Refusal :=
  .next (runCommand (.readMem32 a) s)

/-- CMD_WRITE_MEM32 (R148). -/
def execCmdWriteMem32 (a d : Word) (s : State) : Host.Outcome State Fault Refusal :=
  .next (runCommand (.writeMem32 a d) s)

/-- CMD_READ_REG (R149). -/
def execCmdReadReg (i : Word) (s : State) : Host.Outcome State Fault Refusal :=
  .next (runCommand (.readReg i) s)

/-- CMD_WRITE_REG (R150). -/
def execCmdWriteReg (i d : Word) (s : State) : Host.Outcome State Fault Refusal :=
  .next (runCommand (.writeReg i d) s)

/-- CMD_ENTER_DEBUG (R151). -/
def execCmdEnterDebug (s : State) : Host.Outcome State Fault Refusal :=
  .next (runCommand .enterDebug s)

/-- CMD_POLL (R152): the poll's word out, one response frame in. Counting polls and looking at the status bit are
`RecvResponse`'s (R146); run by itself the poll hands the response on as it came. -/
def execCmdPoll (s : State) : Host.Outcome State Fault Refusal :=
  let r := pollOnce (pollWidth s) s
  .next { r.2 with framerRet := some (.response r.1) }

end Sys2Proof.Machine
end

