-- ==== Sys2Proof/Machine/Access.lean ====
section
/-! DEFINITION. The memory and register access layer (43_access_layer). -/

namespace Sys2Proof.Machine

/-- What a read makes of the framer's answer (R161, R165): the word, or the time-out that drops `TS` to Unknown
(60_exceptions R189). -/
def readResult (r : FramerRet × State) : State :=
  match r.1 with
  | .data d => returnOk (some (d.value.setWidth 32)) r.2
  | .timeout => raise .memoryAccessError .commandTimeout (setTs .unknown r.2)
  | .nothing => r.2
  | .response _ => r.2

/-- What a write makes of the framer's answer (R163, R167): OK once the frame is clocked out. -/
def writeResult (r : FramerRet × State) : State := returnOk none r.2

/-- The three steps of every access (R160): the operand check with its error, the state check, one `SendCommand`
whose answer `done` turns into the response. -/
def access (operandOk : Bool) (bad : Kind) (cmd : Command) (done : FramerRet × State → State) (s : State) : State :=
  if operandOk then
    if s.ts = .debugMode then done (sendCommand cmd s)
    else raise .memoryAccessError .stateError s
  else raise bad .none s

/-- READ_MEM32 (R161, R162). -/
def execReadMem32 (a : Word) (s : State) : Host.Outcome State Fault Refusal :=
  .next (access (aligned4 a) .alignmentError (.readMem32 a) readResult (accept s))

/-- WRITE_MEM32 (R163, R164). -/
def execWriteMem32 (a d : Word) (s : State) : Host.Outcome State Fault Refusal :=
  .next (access (aligned4 a) .alignmentError (.writeMem32 a d) writeResult (accept s))

/-- READ_REG (R165, R166). -/
def execReadReg (i : Word) (s : State) : Host.Outcome State Fault Refusal :=
  .next (access (validIndex s.cfg i) .invalidRegisterError (.readReg i) readResult (accept s))

/-- WRITE_REG (R167, R168). -/
def execWriteReg (i d : Word) (s : State) : Host.Outcome State Fault Refusal :=
  .next (access (validIndex s.cfg i) .invalidRegisterError (.writeReg i d) writeResult (accept s))

end Sys2Proof.Machine
end

