-- ==== Sys2Proof/Machine/SyncReset.lean ====
section
/-! DEFINITION. The synchronization and reset controller (41_sync_reset). -/

namespace Sys2Proof.Machine

/-- RESET_TARGET (R120): allowed in every `TS`. -/
def execResetTarget (s : State) : Host.Outcome State Fault Refusal :=
  let s1 := dly .resetHold (assertLine .reset (accept s))
  let s2 := dly .resetSettle (releaseLine .reset s1)
  .next (returnOk none (setTs .reset s2))

/-- `((WIN << 1) | b) mod 2^SYNC_RESP_W` (R122). -/
def slide (width : Nat) (win : Word) (b : Bool) : Word := ((pushBit win b).setWidth width).setWidth 32

/-- A full window equal to `SYNC_RESPONSE` (R122, R123: no match is tested before `CYC = SYNC_RESP_W`). -/
def windowMatches (s : State) : Bool :=
  decide (s.cfg.syncResponse.width ≤ s.cyc) && s.win == s.cfg.syncResponse.value.setWidth 32

/-- One cycle of the acknowledgement window (R122): one sampled pulse, the window slides, `CYC` counts. -/
def huntCycle (s : State) : State :=
  let p := pulseSample s
  { p.2 with win := slide p.2.cfg.syncResponse.width p.2.win p.1, cyc := p.2.cyc + 1 }

/-- The acknowledgement window with `left` cycles still allowed: did a cycle match (R122)? The earliest match ends
it (R123). -/
def hunt : Nat → State → Bool × State
  | 0, s => (false, s)
  | left + 1, s =>
    let t := huntCycle s
    if windowMatches t then (true, t) else hunt left t

/-- BKPT pulse and sync pattern, then DSI at 0 for the acknowledgement window (R122, R124). -/
def syncStimulus (s : State) : State :=
  let s1 := releaseLine .bkpt (dly .bkptHold (assertLine .bkpt s))
  let s2 := shiftOut s1.cfg.syncPattern s1
  { dly .setup (wr .dsi false s2) with win := 0, cyc := 0 }

/-- SYNC (R122). -/
def execSync (s : State) : Host.Outcome State Fault Refusal :=
  let s0 := accept s
  if s0.ts ≠ .reset then .next (raise .stateError .none s0)
  else
    let h := hunt s0.cfg.syncMaxCycles (syncStimulus s0)
    if h.1 then .next (returnOk none (setTs .synchronized h.2))
    else .next (raise .synchronizationError .none h.2)

/-- What ENTER_DEBUG makes of the framer's answer (R125, R126). -/
def enterDebugResult (r : FramerRet × State) : State :=
  match r.1 with
  | .data d =>
    if d = ⟨16, r.2.cfg.enterAck⟩ then returnOk none (setTs .debugMode r.2)
    else raiseWith .debugModeEntryError .refused (d.value.setWidth 32) r.2
  | .timeout => raise .debugModeEntryError .commandTimeout r.2
  | .nothing => r.2
  | .response _ => r.2

/-- ENTER_DEBUG (R125). A time-out leaves `TS` at Synchronized (90_conflicts C2). -/
def execEnterDebug (s : State) : Host.Outcome State Fault Refusal :=
  let s0 := accept s
  if s0.ts ≠ .synchronized then .next (raise .stateError .none s0)
  else .next (enterDebugResult (sendCommand .enterDebug s0))

/-- DISCONNECT (R127): no events. -/
def execDisconnect (s : State) : Host.Outcome State Fault Refusal :=
  .next (returnOk none (setTs .unknown (accept s)))

end Sys2Proof.Machine
end

