-- ==== Sys2Proof/Machine/Dispatch.lean ====
section
/-! DEFINITION. The instruction dispatch: one arm per row of spec/opcode_table.json. -/

namespace Sys2Proof.Machine

def exec (i : Instr) (s : State) : Host.Outcome State Fault Refusal :=
  match i with
  | .resetTarget => Sys2Proof.Machine.execResetTarget s
  | .sync => Sys2Proof.Machine.execSync s
  | .enterDebug => Sys2Proof.Machine.execEnterDebug s
  | .readMem32 a => Sys2Proof.Machine.execReadMem32 a s
  | .writeMem32 a d => Sys2Proof.Machine.execWriteMem32 a d s
  | .readReg r => Sys2Proof.Machine.execReadReg r s
  | .writeReg r d => Sys2Proof.Machine.execWriteReg r d s
  | .disconnect => Sys2Proof.Machine.execDisconnect s
  | .cmdReadMem32 a => Sys2Proof.Machine.execCmdReadMem32 a s
  | .cmdWriteMem32 a d => Sys2Proof.Machine.execCmdWriteMem32 a d s
  | .cmdReadReg r => Sys2Proof.Machine.execCmdReadReg r s
  | .cmdWriteReg r d => Sys2Proof.Machine.execCmdWriteReg r d s
  | .cmdEnterDebug => Sys2Proof.Machine.execCmdEnterDebug s
  | .cmdPoll => Sys2Proof.Machine.execCmdPoll s

end Sys2Proof.Machine
end

