-- ==== Sys2Proof/Machine/Serve.lean ====
section
/-! DEFINITION. Serving one input: the request port, the frame port, host reads, engine reset. -/

namespace Sys2Proof.Machine

/-- What follows a next state; a fault or a refusal ends it. -/
def andThen (o : Host.Outcome State Fault Refusal) (f : State → Host.Outcome State Fault Refusal) :
    Host.Outcome State Fault Refusal :=
  match o with
  | .next t => f t
  | .fault why => .fault why
  | .refused why => .refused why

/-! ### The ports -/

/-- A host request at the port: no move while `BUSY` = 1 (70_reset_and_hazards R206); a reserved tag is refused
(30_encoding R88); else the operation runs. DESIGN CHOICE (assumption log, entry 12): no rule says which of the first
two comes first for a request with a reserved tag presented while `BUSY` = 1; the model looks at `BUSY` first. -/
def serveRequest (r : Request) (s : State) : Host.Outcome State Fault Refusal :=
  if s.busy then .fault .requestWhileBusy
  else
    match decodeRequest r with
    | .instr i _ => exec i s
    | .refused why => .refused (.decode why)

/-- The `TS` in which a rule calls the framer for a command (40_bit_engine R110): ENTER_DEBUG's in Synchronized, those
of the accesses in DebugMode, and the poll, which `RecvResponse` sends for either, in both. Host operations are no
command. -/
def framerCalledIn (i : Instr) (ts : TargetState) : Bool :=
  match i with
  | .cmdReadMem32 _ => ts == .debugMode
  | .cmdWriteMem32 _ _ => ts == .debugMode
  | .cmdReadReg _ => ts == .debugMode
  | .cmdWriteReg _ _ => ts == .debugMode
  | .cmdEnterDebug => ts == .synchronized
  | .cmdPoll => ts == .synchronized || ts == .debugMode
  | .resetTarget => false
  | .sync => false
  | .enterDebug => false
  | .readMem32 _ => false
  | .writeMem32 _ _ => false
  | .readReg _ => false
  | .writeReg _ _ => false
  | .disconnect => false

/-- A command's bits at the framer (assumption log, entry 6). The framer itself checks no state (42_command_framer
R141): the port keeps its callers' contract, so that no command traffic is shifted in Unknown or Reset
(40_bit_engine R110). DESIGN CHOICE (entry 6): bits after the command's fixed frame length (30_encoding R80), of which the
spec says nothing since it has no such port, are dropped: the command runs and they reach no wire. -/
def serveFrame (bits : List Bool) (s : State) : Host.Outcome State Fault Refusal :=
  match decodeFrame s.cfg bits with
  | .instr i _ => if framerCalledIn i s.ts then exec i s else .refused (.framerNotCalled s.ts)
  | .refused why => .refused (.decode why)

/-- The host reads an output as it is in `from_` (10_state R36), and `s` records it. Nothing of the engine changes. -/
def serveRead (p : HostPort) (from_ s : State) : Host.Outcome State Fault Refusal :=
  match hostValue p from_ with
  | .inl v => .next { s with hostSees := v :: s.hostSees }
  | .inr f => .fault f

/-- Engine reset with a configuration: an ill-formed one is refused (00_scope R9, I20), and so is one whose `PINMAP`
takes a line of another engine (60_exceptions R193, I14), in this order (assumption log, entry 14). -/
def serveReset (c : Config) (s : State) : Host.Outcome State Fault Refusal :=
  if !c.wf then .refused .illFormedConfig
  else if s.others.any (fun m => m.shares c.pinmap) then .refused .sharedLines
  else .next (engineReset c s)

/-- A second engine is known from now on. -/
def addOther (m : PinMap) (s : State) : State := { s with others := m :: s.others }

/-- A second engine instance: refused if it would share a physical line with this engine or with one configured before
(60_exceptions R193, I14); on lines of its own it is another engine, and nothing of this one changes. -/
def serveAttach (m : PinMap) (s : State) : Host.Outcome State Fault Refusal :=
  if (s.cfg.pinmap :: s.others).any (fun m' => m'.shares m) then .refused .sharedLines else .next (addOther m s)

/-! ### What happens while something runs -/

/-- `s` leads to `t` (an operation, or the engine reset sequence from `resetStart`), `k` of its events are emitted, and
the happenings come one after the other. A host read sees the outputs as they are then, and what runs goes on (10_state
R36). Engine reset cuts what runs short, with no event of its own after that and no response, and its sequence runs in
its place (70_reset_and_hazards R200, R207). A request finds the engine busy, or comes after the end (R206). -/
def along : List Happening → Nat → State → State → Host.Outcome State Fault Refusal
  | [], _, _, t => .next t
  | h :: rest, k, s, t =>
    let n := k + h.after
    let now := midway n s t
    match h.what with
    | .hostRead p =>
      andThen (serveRead p now s) (fun s' => andThen (serveRead p now t) (fun t' => along rest n s' t'))
    | .attachEngine m => andThen (serveAttach m now) (fun _ => along rest n (addOther m s) (addOther m t))
    | .engineReset c => andThen (serveReset c now) (fun u => along rest 0 (resetStart c now) u)
    | .request r => andThen (serveRequest r now) (fun u => along rest 0 now u)

/-! ### Inputs and the step -/

/-- One input served. -/
def serve (i : Input) (s : State) : Host.Outcome State Fault Refusal :=
  match i with
  | .request r => serveRequest r s
  | .requestIfOk r => if s.resKind = some Kind.ok.code then serveRequest r s else .next s
  | .requestDuring r l => andThen (serveRequest r s) (fun t => along l 0 s t)
  | .frame bits => serveFrame bits s
  | .engineReset c => serveReset c s
  | .resetDuring c l => andThen (serveReset c s) (fun t => along l 0 (resetStart c s) t)
  | .hostRead p => serveRead p s s
  | .attachEngine m => serveAttach m s

/-- One step: the first input is taken and served. With no input the engine is idle: every latch holds its level
and no event is emitted (60_exceptions R195). -/
def serveNext (s : State) : Host.Outcome State Fault Refusal :=
  match s.inbox with
  | [] => .next s
  | i :: rest => serve i { s with inbox := rest }

/-- The input that presents encoded bits to the engine. -/
def inputOf : Encoded → Input
  | .request r => .request r
  | .frame bits => .frame bits

/-- The `TS` in which the port runs an instruction: where no rule calls the framer for it in `ts`, the one its caller
runs in (40_bit_engine R110). A host operation is presented in any. -/
def fetchTs (i : Instr) (ts : TargetState) : TargetState :=
  match i with
  | .cmdReadMem32 _ => .debugMode
  | .cmdWriteMem32 _ _ => .debugMode
  | .cmdReadReg _ => .debugMode
  | .cmdWriteReg _ _ => .debugMode
  | .cmdEnterDebug => .synchronized
  | .cmdPoll => if framerCalledIn .cmdPoll ts then ts else .debugMode
  | .resetTarget => ts
  | .sync => ts
  | .enterDebug => ts
  | .readMem32 _ => ts
  | .writeMem32 _ _ => ts
  | .readReg _ => ts
  | .writeReg _ _ => ts
  | .disconnect => ts

/-- Encoded bits put where the next step finds them, in the `TS` in which the port runs them. -/
def presentFirst (e : Encoded) (s : State) : State :=
  match decode s.cfg e with
  | .instr i _ => { s with inbox := inputOf e :: s.inbox, ts := fetchTs i s.ts }
  | .refused _ => { s with inbox := inputOf e :: s.inbox }

end Sys2Proof.Machine
end

