-- ==== Sys2Proof/Machine/Step.lean ====
section
/-! DEFINITION. The step of the machine: one input served. -/

namespace Sys2Proof.Machine

/-- One step (assumption log, entry 4). -/
def step (s : State) : Host.Outcome State Fault Refusal := serveNext s

/-- `s` with the instruction of the opcode table whose bits are `w` as the next input; for a wire command with `TS` as its
caller has it, which its port asks for (40_bit_engine R110; assumption log, entry 4). -/
def State.withFetchWord (s : State) (nbits w : Nat) : State := presentFirst (tableEncoded nbits w) s

end Sys2Proof.Machine
end

