-- ==== Sys2Proof/Machine/Assembler.lean ====
section
/-! DEFINITION. The notation for host programs (30_encoding R92) and the pseudo-instruction `connect` (R93). -/

namespace Sys2Proof.Machine

/-- Why a line of a host program is refused (30_encoding R92). -/
inductive AsmError
  /-- The line is none of the nine forms. -/
  | unknownForm
  /-- A number is neither decimal nor `0x` hexadecimal, or names no register. -/
  | badNumber
  /-- A number does not fit in 32 bits. -/
  | tooBig
  deriving DecidableEq, Repr

/-- The inputs a line stands for, or why it is refused. -/
inductive Assembled
  | inputs (l : List Input)
  | refused (why : AsmError)
  deriving DecidableEq, Repr

/-- A line without its comment: `;` starts one. -/
def uncomment (line : List Char) : List Char := line.takeWhile (fun ch => ch != ';')

/-- The words of a line, a comma being a word of its own; `word` is the word being read, last character first. DESIGN
CHOICE (assumption log, entry 20): R92 does not say which characters separate words; here a space, a tab and a carriage
return do. -/
def tokensFrom : List Char → List Char → List (List Char)
  | word, [] => if word.isEmpty then [] else [word.reverse]
  | word, ch :: rest =>
    let done := if word.isEmpty then [] else [word.reverse]
    if ch = ' ' ∨ ch = '\t' ∨ ch = '\r' then done ++ tokensFrom [] rest
    else if ch = ',' then done ++ [','] :: tokensFrom [] rest
    else tokensFrom (ch :: word) rest

/-- The words of a line. -/
def tokens (line : List Char) : List (List Char) := tokensFrom [] (uncomment line)

/-- The value of a decimal or hexadecimal digit, either case. -/
def digitValue (ch : Char) : Option Nat :=
  if '0' ≤ ch ∧ ch ≤ '9' then some (ch.toNat - '0'.toNat)
  else if 'a' ≤ ch ∧ ch ≤ 'f' then some (ch.toNat - 'a'.toNat + 10)
  else if 'A' ≤ ch ∧ ch ≤ 'F' then some (ch.toNat - 'A'.toNat + 10)
  else none

/-- The number digits spell in a base, after the digits read so far gave `acc`. -/
def digitsValue (base : Nat) : Nat → List Char → Option Nat
  | acc, [] => some acc
  | acc, ch :: rest =>
    match digitValue ch with
    | some v => if v < base then digitsValue base (base * acc + v) rest else none
    | none => none

/-- A number, decimal or `0x` hexadecimal (R92). -/
def numberValue (word : List Char) : Option Nat :=
  match word with
  | [] => none
  | ['0', 'x'] => none
  | '0' :: 'x' :: rest => digitsValue 16 0 rest
  | _ => digitsValue 10 0 word

/-- `d0` to `d7` are 0 to 7, `a0` to `a7` are 8 to 15 (R92: in profile P0). -/
def registerName (word : List Char) : Option Nat :=
  match word with
  | ['d', k] => if '0' ≤ k ∧ k ≤ '7' then some (k.toNat - '0'.toNat) else none
  | ['a', k] => if '0' ≤ k ∧ k ≤ '7' then some (k.toNat - '0'.toNat + 8) else none
  | _ => none

/-- A number that must fit in 32 bits (R92), handed on. -/
def withWord (n : Option Nat) (next : Word → Assembled) : Assembled :=
  match n with
  | none => .refused .badNumber
  | some v => if v < 2 ^ 32 then next (BitVec.ofNat 32 v) else .refused .tooBig

/-- A register index: a number, or in profile P0 a register's name (R92). -/
def indexValue (p0 : Bool) (word : List Char) : Option Nat :=
  match (if p0 then registerName word else none) with
  | some v => some v
  | none => numberValue word

/-- The request of a tag with its fields. -/
def requestInput (op : BitVec 4) (a d : Word) : Input := .request ⟨op, a, d⟩

/-- `connect`: the three requests in order, each of the later two presented only if the one before it ended OK (R93). -/
def connectInputs : List Input :=
  [.request ⟨0x0, 0, 0⟩, .requestIfOk ⟨0x1, 0, 0⟩, .requestIfOk ⟨0x2, 0, 0⟩]

/-- The mnemonics of R92. -/
inductive AsmForm
  | resetTarget | sync | enterDebug | rd32 | wr32 | rdreg | wrreg | disconnect | connect
  deriving DecidableEq, Repr

/-- The mnemonics as spelled (R92, R93). -/
def asmForms : List (List Char × AsmForm) :=
  [ (['r', 'e', 's', 'e', 't', '_', 't', 'a', 'r', 'g', 'e', 't'], .resetTarget),
    (['s', 'y', 'n', 'c'], .sync),
    (['e', 'n', 't', 'e', 'r', '_', 'd', 'e', 'b', 'u', 'g'], .enterDebug),
    (['r', 'd', '3', '2'], .rd32),
    (['w', 'r', '3', '2'], .wr32),
    (['r', 'd', 'r', 'e', 'g'], .rdreg),
    (['w', 'r', 'r', 'e', 'g'], .wrreg),
    (['d', 'i', 's', 'c', 'o', 'n', 'n', 'e', 'c', 't'], .disconnect),
    (['c', 'o', 'n', 'n', 'e', 'c', 't'], .connect) ]

/-- The inputs of a mnemonic with its operand words. -/
def assembleForm (p0 : Bool) (form : AsmForm) (args : List (List Char)) : Assembled :=
  match form, args with
  | .resetTarget, [] => .inputs [requestInput 0x0 0 0]
  | .sync, [] => .inputs [requestInput 0x1 0 0]
  | .enterDebug, [] => .inputs [requestInput 0x2 0 0]
  | .disconnect, [] => .inputs [requestInput 0x7 0 0]
  | .connect, [] => .inputs connectInputs
  | .rd32, [a] => withWord (numberValue a) (fun av => .inputs [requestInput 0x3 av 0])
  | .rdreg, [i] => withWord (indexValue p0 i) (fun iv => .inputs [requestInput 0x5 iv 0])
  | .wr32, [a, [','], v] =>
    withWord (numberValue a) (fun av => withWord (numberValue v) (fun dv => .inputs [requestInput 0x4 av dv]))
  | .wrreg, [i, [','], v] =>
    withWord (indexValue p0 i) (fun iv => withWord (numberValue v) (fun dv => .inputs [requestInput 0x6 iv dv]))
  | _, _ => .refused .unknownForm

/-- One line of a host program (R92): no inputs for a blank or comment line. -/
def assembleLine (p0 : Bool) (line : List Char) : Assembled :=
  match tokens line with
  | [] => .inputs []
  | word :: args =>
    match asmForms.lookup word with
    | some form => assembleForm p0 form args
    | none => .refused .unknownForm

/-- A host program, its lines in order; the first refused line refuses it. -/
def assembleLines (p0 : Bool) : List (List Char) → Assembled
  | [] => .inputs []
  | line :: rest =>
    match assembleLine p0 line, assembleLines p0 rest with
    | .inputs l, .inputs m => .inputs (l ++ m)
    | .refused why, _ => .refused why
    | .inputs _, .refused why => .refused why

/-- The lines of a text; `line` is the line being read, last character first. -/
def linesFrom : List Char → List Char → List (List Char)
  | line, [] => [line.reverse]
  | line, ch :: rest => if ch = '\n' then line.reverse :: linesFrom [] rest else linesFrom (ch :: line) rest

/-- A host program as text (R92: one request a line). -/
def assemble (p0 : Bool) (text : String) : Assembled := assembleLines p0 (linesFrom [] text.toList)

/-- The host is ready to run a program: its inputs follow those still waiting. -/
def State.withProgram (s : State) (l : List Input) : State := { s with inbox := s.inbox ++ l }

end Sys2Proof.Machine
end

