-- ==== Sys2Proof/Safety.lean ====
section
/-! DEFINITION. What statements speak of: the traces the rules name, what a target samples, what answers mean, the
moves of `TS`, the engine between operations. -/

namespace Sys2Proof.Machine

/-! ### The traces the rules name -/

/-- The events of `Pulse(false)` (40_bit_engine R103). -/
def pulseEvents : List Event := [.wr .dsclk true, .dly .clkHigh, .wr .dsclk false, .dly .clkLow]

/-- The events of `Pulse(true)` when the target answers `b` (R103). -/
def sampleEvents (b : Bool) : List Event :=
  [.wr .dsclk true, .dly .clkHigh, .wr .dsclk false, .rd b, .dly .clkLow]

/-- The events that send one bit (R105). -/
def bitEvents (b : Bool) : List Event := [.wr .dsi b, .dly .setup] ++ pulseEvents

/-- The events of `ShiftOut` (R105). -/
def shiftOutEvents (b : BitSeq) : List Event := (wireBits b).flatMap bitEvents

/-- The events of `ShiftIn` when the target answers `bits` (R106). -/
def shiftInEvents (bits : List Bool) : List Event := [.wr .dsi false, .dly .setup] ++ bits.flatMap sampleEvents

/-- The events of a command's frame (30_encoding R74, R76). -/
def frameEvents (c : Config) (cmd : Command) : List Event := (frame c cmd).flatMap shiftOutEvents

/-- The events of `RecvResponse(W)` (42_command_framer R146) when the target answers `bits` and at most `left` polls
are allowed. -/
def responseEvents (c : Config) (w : RespWidth) : Nat → List Bool → List Event
  | 0, bits => shiftInEvents (bits.take (1 + w.bits))
  | left + 1, bits =>
    shiftInEvents (bits.take (1 + w.bits)) ++
      if bits.head? = some true then
        frameEvents c .poll ++ responseEvents c w left (bits.drop (1 + w.bits))
      else []

/-- What answers mean to `RecvResponse(W)` with at most `left` polls (R146, 30_encoding R81): the data of the first
frame whose status bit is 0, or a time-out. -/
def answerOf (w : RespWidth) : Nat → List Bool → FramerRet
  | left, bits =>
    if bits.head? = some true then
      match left with
      | 0 => .timeout
      | left' + 1 => answerOf w left' (bits.drop (1 + w.bits))
    else .data ⟨w.bits, ofWire w.bits ((bits.drop 1).take w.bits)⟩

/-- How many response frames `RecvResponse(W)` takes in, with at most `left` polls (R146, R154). -/
def framesTaken (w : RespWidth) : Nat → List Bool → Nat
  | 0, _ => 1
  | left + 1, bits => if bits.head? = some true then 1 + framesTaken w left (bits.drop (1 + w.bits)) else 1

/-- The events of SYNC's stimulus and window when the target answers `bits` (41_sync_reset R122). -/
def syncEvents (c : Config) (bits : List Bool) : List Event :=
  [.wr .bkpt c.bkptActive, .dly .bkptHold, .wr .bkpt (!c.bkptActive)] ++ shiftOutEvents c.syncPattern ++
    [.wr .dsi false, .dly .setup] ++ bits.flatMap sampleEvents

/-- After `n` answers the window is full and equals `SYNC_RESPONSE`: the last `SYNC_RESP_W` answers, oldest first
(30_encoding R84, 41_sync_reset R123). -/
def syncMatchAt (c : Config) (bits : List Bool) (n : Nat) : Prop :=
  c.syncResponse.width ≤ n ∧
  ofWire c.syncResponse.width ((bits.take n).drop (n - c.syncResponse.width)) = c.syncResponse.value

/-- The events of RESET_TARGET (41_sync_reset R120). -/
def resetTargetEvents (c : Config) : List Event :=
  [.wr .reset c.resetActive, .dly .resetHold, .wr .reset (!c.resetActive), .dly .resetSettle]

/-! ### Reading a trace -/

/-- The levels of the `RD(DSO)` events of a trace. -/
def levelsRead : List Event → List Bool
  | [] => []
  | .rd b :: es => b :: levelsRead es
  | .dir _ _ :: es => levelsRead es
  | .wr _ _ :: es => levelsRead es
  | .dly _ :: es => levelsRead es

/-- The DSCLK pulses of a trace: writes of DSCLK to 1 (R103, R109). -/
def pulseCount (es : List Event) : Nat := es.countP (fun e => e == .wr .dsclk true)

/-- The DSO samples of a trace. -/
def sampleCount (es : List Event) : Nat := (levelsRead es).length

/-- The bits a target takes that samples DSI on the rising edge of DSCLK (40_bit_engine R108, 92 D12), from the
levels of DSI and DSCLK before the trace. -/
def sampledAtRise (dsi dsclk : Bool) : List Event → List Bool
  | [] => []
  | .wr .dsi b :: es => sampledAtRise b dsclk es
  | .wr .dsclk b :: es => (if b && !dsclk then [dsi] else []) ++ sampledAtRise dsi b es
  | .wr .bkpt _ :: es => sampledAtRise dsi dsclk es
  | .wr .reset _ :: es => sampledAtRise dsi dsclk es
  | .dir _ _ :: es => sampledAtRise dsi dsclk es
  | .rd _ :: es => sampledAtRise dsi dsclk es
  | .dly _ :: es => sampledAtRise dsi dsclk es

/-- The bits such a target takes while an operation leads from `s` to `t`. -/
def targetSees (s t : State) : List Bool := sampledAtRise s.lvDsi s.lvDsclk (opTrace s t)

/-- The answers the operation from `s` to `t` read from the target, in order. -/
def answersRead (s t : State) : List Bool := levelsRead (opTrace s t)

/-! ### Parts of a state -/

/-- A state with the transient datapath cleared: what is left is what the host and the target can observe
(10_state R31). -/
def scrub (s : State) : State :=
  { s with sh := 0, nbit := 0, polls := 0, win := 0, cyc := 0, cmdw := 0, opa := 0, opd := 0, pend := none }

/-- A state with its response and status set: what an operation writes at its end (10_state R29). -/
def withResponse (ts : TargetState) (k : Kind) (c : Cause) (d : Option Word) (s : State) : State :=
  { s with ts := ts, resKind := some k.code, resCause := some c.code, resData := d, busy := false }

/-- The answers read are the listed ones, as far as the list goes, and the list is used up by them (10_state R26). -/
def answersTaken (s t : State) : Prop :=
  (answersRead s t).take s.dso.length = s.dso.take (answersRead s t).length ∧
  t.dso = s.dso.drop (answersRead s t).length

/-- The configuration `c` with the durations and the PINMAP of `c'`. -/
def retimed (c c' : Config) : Config :=
  { c with
    tSetup := c'.tSetup, tClkHigh := c'.tClkHigh, tClkLow := c'.tClkLow, tResetHold := c'.tResetHold
    tResetSettle := c'.tResetSettle, tBkptHold := c'.tBkptHold, pinmap := c'.pinmap }

/-- What happens while an input is served. -/
def happenings : Input → List Happening
  | .requestDuring _ l => l
  | .resetDuring _ l => l
  | .request _ => []
  | .requestIfOk _ => []
  | .frame _ => []
  | .engineReset _ => []
  | .hostRead _ => []
  | .attachEngine _ => []

/-! ### What a polling host sees -/

/-- Host reads of one output, each after so many more events (10_state R36). -/
def readsOf (p : HostPort) (gaps : List Nat) : List Happening := gaps.map (fun n => ⟨n, .hostRead p⟩)

/-- How many events are emitted when they come, from `k` on. -/
def momentsFrom : Nat → List Nat → List Nat
  | _, [] => []
  | k, n :: gaps => (k + n) :: momentsFrom (k + n) gaps

/-- What is seen once `k` of `total` events are emitted: one value while it runs, up to its last event, and another
when it is over. -/
def seenAt (total : Nat) (running ended : Word) (k : Nat) : Word := if k ≤ total then running else ended

/-- What the host has read after such reads, newest first. -/
def seen (total : Nat) (running ended : Word) (gaps : List Nat) (before : List Word) : List Word :=
  ((momentsFrom 0 gaps).map (seenAt total running ended)).reverse ++ before

/-! ### What the target answers -/

/-- Not-ready response frames: a status bit 1 and data bits that mean nothing (30_encoding R81). -/
def notReadyFrames (junk : List (List Bool)) : List Bool := junk.flatMap (fun f => true :: f)

/-- From `s` on the target's listed answers are not-ready frames of data width W, one for each of `junk`, and then
`more`. -/
def answersBusyThen (w : RespWidth) (junk : List (List Bool)) (more : List Bool) (s : State) : Prop :=
  (∀ f ∈ junk, f.length = w.bits) ∧ s.dso = notReadyFrames junk ++ more

/-! ### TS and RESULT -/

/-- The moves of `TS` (10_state R23): an instruction, `TS` before, how it ended (KIND and CAUSE codes), `TS` after. -/
def tsMove (i : Instr) (before : TargetState) (kind cause : Option (BitVec 4)) (after : TargetState) : Prop :=
  match i with
  | .resetTarget => after = .reset
  | .disconnect => after = .unknown
  | .sync => if kind = some Kind.ok.code then before = .reset ∧ after = .synchronized else after = before
  | .enterDebug => if kind = some Kind.ok.code then before = .synchronized ∧ after = .debugMode else after = before
  | .readMem32 _ =>
    if kind = some Kind.memoryAccessError.code ∧ cause = some Cause.commandTimeout.code
    then before = .debugMode ∧ after = .unknown else after = before
  | .readReg _ =>
    if kind = some Kind.memoryAccessError.code ∧ cause = some Cause.commandTimeout.code
    then before = .debugMode ∧ after = .unknown else after = before
  | .writeMem32 _ _ => after = before
  | .writeReg _ _ => after = before
  | .cmdReadMem32 _ => after = before
  | .cmdWriteMem32 _ _ => after = before
  | .cmdReadReg _ => after = before
  | .cmdWriteReg _ _ => after = before
  | .cmdEnterDebug => after = before
  | .cmdPoll => after = before

/-- The host operations, as against the framer's commands. -/
def isHostOp : Instr → Bool
  | .resetTarget | .sync | .enterDebug | .readMem32 _ | .writeMem32 _ _ | .readReg _ | .writeReg _ _ | .disconnect =>
    true
  | .cmdReadMem32 _ | .cmdWriteMem32 _ _ | .cmdReadReg _ | .cmdWriteReg _ _ | .cmdEnterDebug | .cmdPoll => false

/-- The contents `RESULT` can have: no value yet, or one line of 60_exceptions R182 or OK, with data only where
10_state R30 lets it be. -/
def resultLegal (kind cause : Option (BitVec 4)) (data : Option Word) : Prop :=
  (kind = none ∧ cause = none ∧ data = none) ∨
  (kind = some Kind.ok.code ∧ cause = some Cause.none.code) ∨
  (kind = some Kind.debugModeEntryError.code ∧ cause = some Cause.refused.code ∧
    ∃ d, data = some d ∧ d.toNat < 2 ^ 16) ∨
  (data = none ∧
    ((cause = some Cause.none.code ∧
        (kind = some Kind.synchronizationError.code ∨ kind = some Kind.stateError.code ∨
          kind = some Kind.alignmentError.code ∨ kind = some Kind.invalidRegisterError.code)) ∨
      (kind = some Kind.debugModeEntryError.code ∧ cause = some Cause.commandTimeout.code) ∨
      (kind = some Kind.memoryAccessError.code ∧
        (cause = some Cause.commandTimeout.code ∨ cause = some Cause.stateError.code))))

/-- The engine between operations: a well-formed configuration (00_scope R9), `BUSY` 0 (10_state R28), DSCLK low
(40_bit_engine R103), BKPT and RESET released (10_state R24), the directions of 10_state R25, a legal RESULT, and no
line shared with another engine (10_state R35, 60_exceptions R193). -/
structure Idle (s : State) : Prop where
  cfgWf        : s.cfg.wf = true
  notBusy      : s.busy = false
  clockLow     : s.lvDsclk = false
  bkptFree     : s.lvBkpt = !s.cfg.bkptActive
  resetFree    : s.lvReset = !s.cfg.resetActive
  dsiOut       : s.dirDsi = .output
  dsclkOut     : s.dirDsclk = .output
  bkptOut      : s.dirBkpt = .output
  resetOut     : s.dirReset = .output
  dsoIn        : s.dirDso = .input
  resultOk     : resultLegal s.resKind s.resCause s.resData
  linesOwn     : ∀ m ∈ s.others, m.shares s.cfg.pinmap = false

end Sys2Proof.Machine
end

