-- ==== Sys2Proof/Certificates/Slice0/Obligations.lean ====
section
/-! DEFINITION. The statements for the provers. -/

open Sys2Proof Sys2Proof.Machine

/-! ### Encoding -/

/-- Decoding an encoded well-formed instruction gives it back, every operand at every value (30_encoding R71 to R78,
R87, R88). -/
def Obligations.DecodeAnswersEncode : Prop :=
  ∀ (c : Config) (i : Instr), c.wf = true → i.wf c = true → decode c (encode c i) = .instr i []

/-- The other direction: bits that decode are the encoding of the instruction read, and the rest (30_encoding R79, R80).
That the instruction read is well formed (an aligned address, an index below REG_COUNT) is the model's reading
(assumption log, entry 23, DEDUCED from 30_encoding R72 and 42_command_framer R147, R148): its decoder refuses other
frames. -/
def Obligations.DecodedFrameIsItsEncoding : Prop :=
  ∀ (c : Config) (bits rest : List Bool) (i : Instr), c.wf = true → decodeFrame c bits = .instr i rest →
    i.wf c = true ∧ ∃ used, encode c i = .frame used ∧ bits = used ++ rest

/-- A request whose tag is 0x8 to 0xF is refused at the port: no step (30_encoding R88). -/
def Obligations.ReservedTagsRefused : Prop :=
  ∀ (s : State) (op : BitVec 4) (a d : Word) (rest : List Input), s.busy = false → 8 ≤ op.toNat →
    s.inbox = .request ⟨op, a, d⟩ :: rest → step s = .refused (.decode (.reservedOp op))

/-- A field that the operation does not use has no effect on it (30_encoding R87, R88). -/
def Obligations.UnusedFieldsHaveNoEffect : Prop :=
  ∀ (op : BitVec 4) (a a' d d' : Word),
    ((op = 0x0 ∨ op = 0x1 ∨ op = 0x2 ∨ op = 0x7) → decodeRequest ⟨op, a, d⟩ = decodeRequest ⟨op, a', d'⟩) ∧
    ((op = 0x3 ∨ op = 0x5) → decodeRequest ⟨op, a, d⟩ = decodeRequest ⟨op, a, d'⟩)

/-- Words written out from the tables of 30_encoding R86 and R88, read in profile P0. -/
def Obligations.TableWordsDecode : Prop :=
  decodeTableWord 8 0b0000 = some .resetTarget ∧ decodeTableWord 8 0b0111 = some .disconnect ∧
  decodeTableWord 8 0b0110 = some (.writeReg 0 0) ∧ decodeTableWord 8 0b1001 = none ∧
  decodeTableWord 16 0b0001100110000000 = some (.cmdReadMem32 0) ∧
  decodeTableWord 16 0b0010000110001111 = some (.cmdReadReg 15) ∧
  decodeTableWord 16 0b0010000010000001 = some (.cmdWriteReg 1 0) ∧
  decodeTableWord 16 0b0011111100000000 = some .cmdEnterDebug ∧ decodeTableWord 16 0 = some .cmdPoll

/-- The well-formed parameter sets are those of 00_scope R9, its six sets of command words taken literally as sets,
with the ranges of R8's constraint column and an injective PINMAP. -/
def Obligations.ConfigWellFormedIsRuleR9 : Prop :=
  ∀ c : Config,
    let regWords := fun (opc w : CmdWord) => ∃ i : Nat, i < c.regCount ∧ w = opc ||| BitVec.ofNat 16 i
    let sets : List (CmdWord → Prop) :=
      [fun w => w = c.opcReadMem32, fun w => w = c.opcWriteMem32, regWords c.opcReadReg, regWords c.opcWriteReg,
       fun w => w = c.opcEnterDebug, fun w => w = c.opcPoll]
    c.wf = true ↔
      (1 ≤ c.regIdxW ∧ c.regIdxW ≤ 16 ∧ 1 ≤ c.regCount ∧ c.regCount ≤ 2 ^ c.regIdxW) ∧
      (∀ k < c.regIdxW, c.opcReadReg.getLsbD k = false ∧ c.opcWriteReg.getLsbD k = false) ∧
      sets.Pairwise (fun p q => ∀ w, ¬ (p w ∧ q w)) ∧
      (1 ≤ c.syncPattern.width ∧ c.syncPattern.width ≤ 32) ∧
      (1 ≤ c.syncResponse.width ∧ c.syncResponse.width ≤ 32 ∧ c.syncResponse.width ≤ c.syncMaxCycles) ∧
      (0 < c.tClkHigh ∧ 0 < c.tClkLow ∧ 0 < c.tResetHold ∧ 0 < c.tBkptHold) ∧
      (∀ p q : Line, c.pinmap.physical p = c.pinmap.physical q → p = q)

/-! ### Bit engine -/

/-- Pulses, samples and events of the four micro-operations (40_bit_engine R109). -/
def Obligations.BitEngineCounts : Prop :=
  (∀ s : State, pulseCount (opTrace s (pulse s)) = 1 ∧ sampleCount (opTrace s (pulse s)) = 0 ∧
    (opTrace s (pulse s)).length = 4) ∧
  (∀ s : State, pulseCount (opTrace s (pulseSample s).2) = 1 ∧ sampleCount (opTrace s (pulseSample s).2) = 1 ∧
    (opTrace s (pulseSample s).2).length = 5) ∧
  (∀ (b : BitSeq) (s : State), pulseCount (opTrace s (shiftOut b s)) = b.width ∧
    sampleCount (opTrace s (shiftOut b s)) = 0 ∧ (opTrace s (shiftOut b s)).length = 6 * b.width) ∧
  (∀ (n : Nat) (s : State), pulseCount (opTrace s (shiftIn n s).2) = n ∧
    sampleCount (opTrace s (shiftIn n s).2) = n ∧ (opTrace s (shiftIn n s).2).length = 2 + 5 * n)

/-- A target that samples DSI on rising edges takes exactly the bits of the BitSequence, most significant first;
DSI stays at the last bit and DSCLK ends low (40_bit_engine R105, R108). -/
def Obligations.ShiftOutDeliversEveryBit : Prop :=
  ∀ (b : BitSeq) (s : State), 1 ≤ b.width → s.lvDsclk = false →
    targetSees s (shiftOut b s) = wireBits b ∧ (wireBits b).length = b.width ∧
    (∀ k < b.width, (wireBits b)[k]? = some (b.value.getLsbD (b.width - 1 - k))) ∧
    (shiftOut b s).lvDsi = b.value.getLsbD 0 ∧ (shiftOut b s).lvDsclk = false

/-- `ShiftIn(n)`: the first bit sampled becomes bit n-1, the n-th bit 0; DSI is 0 for every pulse; the samples are
the target's answers (40_bit_engine R106). -/
def Obligations.ShiftInAssemblesMsbFirst : Prop :=
  ∀ (n : Nat) (s : State), 1 ≤ n → n ≤ 33 →
    (shiftIn n s).1.width = n ∧ (answersRead s (shiftIn n s).2).length = n ∧
    (∀ k < n, (answersRead s (shiftIn n s).2)[k]? = some ((shiftIn n s).1.value.getLsbD (n - 1 - k))) ∧
    answersTaken s (shiftIn n s).2 ∧
    (s.lvDsclk = false → targetSees s (shiftIn n s).2 = List.replicate n false) ∧
    (shiftIn n s).2.lvDsi = false ∧ (shiftIn n s).2.lvDsclk = false

/-- Encoding and decoding are inverse for every width in use, against a target that sends back the bits it sampled
(30_encoding R85). -/
def Obligations.LoopbackRoundTrip : Prop :=
  ∀ (b : BitSeq) (s : State), b.width = 16 ∨ b.width = 32 → s.lvDsclk = false →
    (shiftIn b.width { shiftOut b s with dso := targetSees s (shiftOut b s) }).1 = b

/-! ### Command framer -/

/-- CMD_WRITE_MEM32 and CMD_WRITE_REG send their frame, read nothing and return NONE; nothing else changes but the
transient registers (42_command_framer R145, R148, R150). -/
def Obligations.WriteCommandsSendTheirFrame : Prop :=
  ∀ (s : State) (a i d : Word),
    (∃ t, exec (.cmdWriteMem32 a d) s = .next t ∧
      scrub t = { emits (frameEvents s.cfg (.writeMem32 a d)) (scrub s) with framerRet := some .nothing } ∧
      answersRead s t = [] ∧ pulseCount (opTrace s t) = 80) ∧
    (∃ t, exec (.cmdWriteReg i d) s = .next t ∧
      scrub t = { emits (frameEvents s.cfg (.writeReg i d)) (scrub s) with framerRet := some .nothing } ∧
      answersRead s t = [] ∧ pulseCount (opTrace s t) = 48)

/-- CMD_READ_MEM32, CMD_READ_REG and CMD_ENTER_DEBUG send their frame, take in response frames and send polls as
`RecvResponse` says, and return what the answers mean; nothing else changes but the transient registers
(42_command_framer R145, R146, R147, R149, R151). -/
def Obligations.ReadCommandsExchangeFrames : Prop :=
  ∀ (s : State) (i : Instr) (cmd : Command) (w : RespWidth),
    ((∃ a, i = .cmdReadMem32 a ∧ cmd = .readMem32 a ∧ w = .w32) ∨
      (∃ r, i = .cmdReadReg r ∧ cmd = .readReg r ∧ w = .w32) ∨
      (i = .cmdEnterDebug ∧ cmd = .enterDebug ∧ w = .w16)) →
    ∃ t, exec i s = .next t ∧
      scrub t = { emits (frameEvents s.cfg cmd ++ responseEvents s.cfg w s.cfg.retryMax (answersRead s t)) (scrub s)
                  with framerRet := some (answerOf w s.cfg.retryMax (answersRead s t)) } ∧
      (answersRead s t).length = framesTaken w s.cfg.retryMax (answersRead s t) * (1 + w.bits) ∧ answersTaken s t

/-- CMD_POLL sends its word and takes in one response frame with the W of the command that waits for an answer
(42_command_framer R152); nothing else changes but the transient registers. That the poll, run by itself, hands back the
raw response frame (assumption log, entry 6), and that the model keeps W in the field `pend` and the command stays pending
(entry 7), are the model's DESIGN CHOICES: R152 has a poll return only inside `RecvResponse`. -/
def Obligations.PollTakesOneResponse : Prop :=
  ∀ (s : State) (w : RespWidth), s.pend = some w →
    ∃ t, exec .cmdPoll s = .next t ∧ (answersRead s t).length = 1 + w.bits ∧ answersTaken s t ∧ t.pend = some w ∧
      scrub t = { emits (frameEvents s.cfg .poll ++ shiftInEvents (answersRead s t)) (scrub s)
                  with framerRet := some (.response ⟨1 + w.bits, ofWire (1 + w.bits) (answersRead s t)⟩) }

/-- With no command pending the poll still runs; how many bits it takes in is the model's free value (assumption log,
entry 7: 42_command_framer R152 says it never comes first). -/
def Obligations.PollWithNothingPendingStillRuns : Prop :=
  ∀ s : State, s.pend = none →
    ∃ t w, exec .cmdPoll s = .next t ∧ (answersRead s t).length = 1 + RespWidth.bits w ∧
      opTrace s t = frameEvents s.cfg .poll ++ shiftInEvents (answersRead s t) ∧ answersTaken s t

/-- The framer writes no `TS` and no `RESULT` (42_command_framer R140), nor anything else of the engine but DSI,
DSCLK, the trace, the transient registers and what it returns. -/
def Obligations.FramerWritesNoStatus : Prop :=
  ∀ (cmd : Command) (s t : State), exec cmd.toInstr s = .next t →
    t.ts = s.ts ∧ t.resKind = s.resKind ∧ t.resCause = s.resCause ∧ t.resData = s.resData ∧ t.busy = s.busy ∧
    t.cfg = s.cfg ∧ t.lvBkpt = s.lvBkpt ∧ t.lvReset = s.lvReset ∧ t.dirDsi = s.dirDsi ∧ t.dirDso = s.dirDso ∧
    t.dirDsclk = s.dirDsclk ∧ t.dirBkpt = s.dirBkpt ∧ t.dirReset = s.dirReset ∧ t.inbox = s.inbox ∧
    t.hostSees = s.hostSees ∧ t.others = s.others

/-- TIMEOUT is returned iff all `1 + RETRY_MAX` response frames are not-ready; the data returned is that of the first
frame whose status bit is 0, and frames after it are not asked for (42_command_framer R146). -/
def Obligations.AnswerIsTheFirstReadyFrame : Prop :=
  ∀ (s t : State) (a : Word), exec (.cmdReadMem32 a) s = .next t →
    let bits := answersRead s t
    (t.framerRet = some .timeout ↔
      bits.length = 33 * (1 + s.cfg.retryMax) ∧ ∀ k ≤ s.cfg.retryMax, bits[33 * k]? = some true) ∧
    (∀ d, t.framerRet = some (.data d) →
      ∃ k ≤ s.cfg.retryMax, bits.length = 33 * (1 + k) ∧ (∀ j < k, bits[33 * j]? = some true) ∧
        bits[33 * k]? = some false ∧ d.width = 32 ∧
        ∀ m < 32, bits[33 * k + 1 + m]? = some (d.value.getLsbD (31 - m)))

/-- For a read-class command with `k` not-ready responses: the pulses and samples of 42_command_framer R154, and `k`
is at most `RETRY_MAX`, so that every command ends (R155). -/
def Obligations.PollCountBoundsTheTraffic : Prop :=
  ∀ (s t : State) (i : Instr) (frameLen w : Nat),
    ((∃ a, i = .cmdReadMem32 a ∧ frameLen = 48 ∧ w = 32) ∨ (∃ r, i = .cmdReadReg r ∧ frameLen = 16 ∧ w = 32) ∨
      (i = .cmdEnterDebug ∧ frameLen = 16 ∧ w = 16)) →
    exec i s = .next t →
    ∃ k ≤ s.cfg.retryMax, sampleCount (opTrace s t) = (1 + k) * (1 + w) ∧
      pulseCount (opTrace s t) = frameLen + (1 + k) * (1 + w) + 16 * k ∧
      (t.framerRet = some .timeout → k = s.cfg.retryMax)

/-! ### Synchronization and reset controller -/

/-- RESET_TARGET: the four events, `TS` Reset, OK with no data, nothing else (41_sync_reset R120). -/
def Obligations.ResetTargetResult : Prop :=
  ∀ s : State, exec .resetTarget s =
    .next { emits [.wr .reset s.cfg.resetActive, .dly .resetHold, .wr .reset (!s.cfg.resetActive), .dly .resetSettle] s
            with ts := .reset, resKind := some 0, resCause := some 0, resData := none, busy := false }

/-- DISCONNECT: `TS` Unknown, OK with no data, no event, nothing else (41_sync_reset R127). -/
def Obligations.DisconnectResult : Prop :=
  ∀ s : State, exec .disconnect s =
    .next { s with ts := .unknown, resKind := some 0, resCause := some 0, resData := none, busy := false }

/-- SYNC: outside Reset STATE_ERROR with no event; from Reset the stimulus, then samples until the first cycle at which
the full window equals `SYNC_RESPONSE`, or `SYNC_MAX_CYCLES` of them; Synchronized and OK on a match, else Reset and
SYNCHRONIZATION_ERROR; nothing else but transient registers (41_sync_reset R122, R123). -/
def Obligations.SyncStopsAtTheEarliestMatch : Prop :=
  ∀ s : State, s.cfg.wf = true →
    (s.ts ≠ .reset → exec .sync s = .next (withResponse s.ts .stateError .none none s)) ∧
    (s.ts = .reset →
      ∃ t, exec .sync s = .next t ∧
        let bits := answersRead s t
        answersTaken s t ∧ bits.length ≤ s.cfg.syncMaxCycles ∧ (∀ n < bits.length, ¬ syncMatchAt s.cfg bits n) ∧
        ((syncMatchAt s.cfg bits bits.length ∧
            scrub t = withResponse .synchronized .ok .none none (emits (syncEvents s.cfg bits) (scrub s))) ∨
          (bits.length = s.cfg.syncMaxCycles ∧ ¬ syncMatchAt s.cfg bits bits.length ∧
            scrub t = withResponse .reset .synchronizationError .none none (emits (syncEvents s.cfg bits) (scrub s)))))

/-- SYNC ends OK and Synchronized when the target's answers hold `SYNC_RESPONSE` within `SYNC_MAX_CYCLES` cycles,
leading garbage tolerated (41_sync_reset R122, R123). -/
def Obligations.SyncSucceedsOnTheResponse : Prop :=
  ∀ (s : State) (n : Nat), s.ts = .reset → s.cfg.wf = true → n ≤ s.cfg.syncMaxCycles → n ≤ s.dso.length →
    syncMatchAt s.cfg s.dso n →
    ∃ t, exec .sync s = .next t ∧ t.ts = .synchronized ∧ t.resKind = some 0 ∧ t.resCause = some 0 ∧
      t.resData = none ∧ t.busy = false ∧ (answersRead s t).length ≤ n

/-- ENTER_DEBUG: the four lines of 41_sync_reset R126, with the trace of R125 in whole response frames; nothing else but
transient registers. -/
def Obligations.EnterDebugResult : Prop :=
  ∀ s : State,
    (s.ts ≠ .synchronized → exec .enterDebug s = .next (withResponse s.ts .stateError .none none s)) ∧
    (s.ts = .synchronized →
      ∃ t, exec .enterDebug s = .next t ∧ answersTaken s t ∧
        let bits := answersRead s t
        bits.length = framesTaken .w16 s.cfg.retryMax bits * (1 + RespWidth.bits .w16) ∧
        let after := emits (frameEvents s.cfg .enterDebug ++ responseEvents s.cfg .w16 s.cfg.retryMax bits) (scrub s)
        (answerOf .w16 s.cfg.retryMax bits = .timeout ∧
          scrub t = withResponse .synchronized .debugModeEntryError .commandTimeout none after) ∨
        (∃ v : BitVec 16, answerOf .w16 s.cfg.retryMax bits = .data ⟨16, v⟩ ∧
          (v = s.cfg.enterAck → scrub t = withResponse .debugMode .ok .none none after) ∧
          (v ≠ s.cfg.enterAck →
            scrub t = withResponse .synchronized .debugModeEntryError .refused (some (v.setWidth 32)) after)))

/-- ENTER_DEBUG ends in DebugMode when the target, after at most `RETRY_MAX` not-ready answers, acknowledges
(41_sync_reset R125, 42_command_framer R153). -/
def Obligations.EnterDebugSucceedsOnTheAck : Prop :=
  ∀ (s : State) (junk : List (List Bool)) (more : List Bool), s.ts = .synchronized →
    junk.length ≤ s.cfg.retryMax →
    answersBusyThen .w16 junk (false :: wireBits ⟨16, s.cfg.enterAck⟩ ++ more) s →
    ∃ t, exec .enterDebug s = .next t ∧ t.ts = .debugMode ∧ t.resKind = some 0 ∧ t.resCause = some 0 ∧
      t.resData = none ∧ t.busy = false ∧ t.dso = more

/-! ### Access layer -/

/-- READ_MEM32: the four lines of 43_access_layer R162, the answers read being whole response frames. -/
def Obligations.ReadMem32Result : Prop :=
  ∀ (s : State) (a : Word),
    (a.toNat % 4 ≠ 0 → exec (.readMem32 a) s = .next (withResponse s.ts .alignmentError .none none s)) ∧
    (a.toNat % 4 = 0 → s.ts ≠ .debugMode →
      exec (.readMem32 a) s = .next (withResponse s.ts .memoryAccessError .stateError none s)) ∧
    (a.toNat % 4 = 0 → s.ts = .debugMode →
      ∃ t, exec (.readMem32 a) s = .next t ∧ answersTaken s t ∧
        let bits := answersRead s t
        bits.length = framesTaken .w32 s.cfg.retryMax bits * (1 + RespWidth.bits .w32) ∧
        let after := emits (frameEvents s.cfg (.readMem32 a) ++ responseEvents s.cfg .w32 s.cfg.retryMax bits) (scrub s)
        (answerOf .w32 s.cfg.retryMax bits = .timeout ∧
          scrub t = withResponse .unknown .memoryAccessError .commandTimeout none after) ∨
        (∃ v : Word, answerOf .w32 s.cfg.retryMax bits = .data ⟨32, v⟩ ∧
          scrub t = withResponse .debugMode .ok .none (some v) after))

/-- WRITE_MEM32: the three lines of 43_access_layer R164. -/
def Obligations.WriteMem32Result : Prop :=
  ∀ (s : State) (a d : Word),
    (a.toNat % 4 ≠ 0 → exec (.writeMem32 a d) s = .next (withResponse s.ts .alignmentError .none none s)) ∧
    (a.toNat % 4 = 0 → s.ts ≠ .debugMode →
      exec (.writeMem32 a d) s = .next (withResponse s.ts .memoryAccessError .stateError none s)) ∧
    (a.toNat % 4 = 0 → s.ts = .debugMode →
      ∃ t, exec (.writeMem32 a d) s = .next t ∧
        scrub t = withResponse .debugMode .ok .none none (emits (frameEvents s.cfg (.writeMem32 a d)) (scrub s)) ∧
        pulseCount (opTrace s t) = 80)

/-- READ_REG: the four lines of 43_access_layer R166, the answers read being whole response frames. -/
def Obligations.ReadRegResult : Prop :=
  ∀ (s : State) (i : Word),
    (s.cfg.regCount ≤ i.toNat → exec (.readReg i) s = .next (withResponse s.ts .invalidRegisterError .none none s)) ∧
    (i.toNat < s.cfg.regCount → s.ts ≠ .debugMode →
      exec (.readReg i) s = .next (withResponse s.ts .memoryAccessError .stateError none s)) ∧
    (i.toNat < s.cfg.regCount → s.ts = .debugMode →
      ∃ t, exec (.readReg i) s = .next t ∧ answersTaken s t ∧
        let bits := answersRead s t
        bits.length = framesTaken .w32 s.cfg.retryMax bits * (1 + RespWidth.bits .w32) ∧
        let after := emits (frameEvents s.cfg (.readReg i) ++ responseEvents s.cfg .w32 s.cfg.retryMax bits) (scrub s)
        (answerOf .w32 s.cfg.retryMax bits = .timeout ∧
          scrub t = withResponse .unknown .memoryAccessError .commandTimeout none after) ∨
        (∃ v : Word, answerOf .w32 s.cfg.retryMax bits = .data ⟨32, v⟩ ∧
          scrub t = withResponse .debugMode .ok .none (some v) after))

/-- WRITE_REG: the three lines of 43_access_layer R168. -/
def Obligations.WriteRegResult : Prop :=
  ∀ (s : State) (i d : Word),
    (s.cfg.regCount ≤ i.toNat → exec (.writeReg i d) s = .next (withResponse s.ts .invalidRegisterError .none none s)) ∧
    (i.toNat < s.cfg.regCount → s.ts ≠ .debugMode →
      exec (.writeReg i d) s = .next (withResponse s.ts .memoryAccessError .stateError none s)) ∧
    (i.toNat < s.cfg.regCount → s.ts = .debugMode →
      ∃ t, exec (.writeReg i d) s = .next t ∧
        scrub t = withResponse .debugMode .ok .none none (emits (frameEvents s.cfg (.writeReg i d)) (scrub s)) ∧
        pulseCount (opTrace s t) = 48)

/-- A read ends OK with the word the target answers after at most `RETRY_MAX` not-ready frames, whatever those hold,
and the not-ready ones leave no mark (42_command_framer R146, R153; 43_access_layer R161, R165). -/
def Obligations.ReadsReturnTheAnsweredWord : Prop :=
  ∀ (s : State) (i : Instr) (v : Word) (junk : List (List Bool)) (more : List Bool),
    ((∃ a : Word, i = .readMem32 a ∧ a.toNat % 4 = 0) ∨ (∃ r : Word, i = .readReg r ∧ r.toNat < s.cfg.regCount)) →
    s.ts = .debugMode → junk.length ≤ s.cfg.retryMax →
    answersBusyThen .w32 junk (false :: wireBits ⟨32, v⟩ ++ more) s →
    ∃ t, exec i s = .next t ∧ t.resKind = some 0 ∧ t.resCause = some 0 ∧ t.resData = some v ∧
      t.ts = .debugMode ∧ t.busy = false ∧ t.dso = more

/-- Not-ready frames to the ceiling, whatever their data bits: CommandTimeout, `TS` Unknown, and a following
ENTER_DEBUG fails with STATE_ERROR (43_access_layer R161, R165; 60_exceptions R189; 70_reset_and_hazards R212). -/
def Obligations.TimeoutDropsToUnknown : Prop :=
  ∀ (s : State) (i : Instr) (junk : List (List Bool)) (more : List Bool),
    ((∃ a : Word, i = .readMem32 a ∧ a.toNat % 4 = 0) ∨ (∃ r : Word, i = .readReg r ∧ r.toNat < s.cfg.regCount)) →
    s.ts = .debugMode → junk.length = 1 + s.cfg.retryMax → answersBusyThen .w32 junk more s →
    ∃ t, exec i s = .next t ∧ t.resKind = some 7 ∧ t.resCause = some 3 ∧ t.resData = none ∧ t.ts = .unknown ∧
      t.dso = more ∧
      exec .enterDebug t = .next { t with resKind := some 4, resCause := some 0, resData := none, busy := false }

/-- Both rejections happen before any wire traffic, in every `TS` (43_access_layer R170). -/
def Obligations.BadOperandsNeverReachTheWire : Prop :=
  ∀ (s : State) (x d : Word),
    (x.toNat % 4 ≠ 0 → ∀ i ∈ [Instr.readMem32 x, Instr.writeMem32 x d],
      ∃ t, exec i s = .next t ∧ t.resKind = some 5 ∧ t.resCause = some 0 ∧ opTrace s t = [] ∧ t.ts = s.ts) ∧
    (s.cfg.regCount ≤ x.toNat → ∀ i ∈ [Instr.readReg x, Instr.writeReg x d],
      ∃ t, exec i s = .next t ∧ t.resKind = some 6 ∧ t.resCause = some 0 ∧ opTrace s t = [] ∧ t.ts = s.ts)

/-- What a target that samples on rising edges takes in during an access is, to the decoder of 30_encoding, the
command the rules name, with exactly the request's operands (42_command_framer R147 to R150, 40_bit_engine R108). -/
def Obligations.TargetDecodesTheAccess : Prop :=
  ∀ (s : State) (a r d : Word), s.cfg.wf = true → s.lvDsclk = false → s.ts = .debugMode → a.toNat % 4 = 0 →
    r.toNat < s.cfg.regCount →
    (∃ t rest, exec (.readMem32 a) s = .next t ∧
      decodeFrame s.cfg (targetSees s t) = .instr (.cmdReadMem32 a) rest) ∧
    (∃ t, exec (.writeMem32 a d) s = .next t ∧
      decodeFrame s.cfg (targetSees s t) = .instr (.cmdWriteMem32 a d) []) ∧
    (∃ t rest, exec (.readReg r) s = .next t ∧
      decodeFrame s.cfg (targetSees s t) = .instr (.cmdReadReg r) rest) ∧
    (∃ t, exec (.writeReg r d) s = .next t ∧
      decodeFrame s.cfg (targetSees s t) = .instr (.cmdWriteReg r d) [])

/-- Write-then-read is the identity on a target that stores the word it takes in and answers the read with it within
`RETRY_MAX` polls (43_access_layer R169). -/
def Obligations.WriteThenReadReturnsTheWord : Prop :=
  ∀ (s : State) (a v : Word) (junk : List (List Bool)) (more : List Bool), s.cfg.wf = true → s.lvDsclk = false →
    s.ts = .debugMode → a.toNat % 4 = 0 → junk.length ≤ s.cfg.retryMax → (∀ f ∈ junk, f.length = 32) →
    ∃ t, exec (.writeMem32 a v) s = .next t ∧
      ∃ stored, decodeFrame s.cfg (targetSees s t) = .instr (.cmdWriteMem32 a stored) [] ∧
        ∃ u, exec (.readMem32 a)
            { t with dso := notReadyFrames junk ++ (false :: wireBits ⟨32, stored⟩ ++ more) } = .next u ∧
          u.resKind = some 0 ∧ u.resCause = some 0 ∧ u.resData = some v ∧ u.ts = .debugMode

/-! ### Whole-machine rules -/

/-- `TS` changes only as the table of 10_state R23 says: the instructions' rows, the row of engine reset, and no row
for a host read or a second engine. -/
def Obligations.TsMovesOnlyByTheTable : Prop :=
  (∀ (i : Instr) (s t : State), exec i s = .next t → tsMove i s.ts t.resKind t.resCause t.ts) ∧
  (∀ (c : Config) (s : State), (engineReset c s).ts = .unknown) ∧
  (∀ (s t : State) (rest : List Input), ((∃ p, s.inbox = .hostRead p :: rest) ∨ (∃ m, s.inbox = .attachEngine m :: rest)) →
    step s = .next t → t.ts = s.ts)

/-- BKPT is written only by SYNC, RESET only by RESET_TARGET, and no operation emits DIR (41_sync_reset R120, R124;
10_state R25). -/
def Obligations.ControlLinesHaveOneWriter : Prop :=
  ∀ (i : Instr) (s t : State), exec i s = .next t →
    (i ≠ .sync → ∀ b, Event.wr .bkpt b ∉ opTrace s t) ∧ (i ≠ .resetTarget → ∀ b, Event.wr .reset b ∉ opTrace s t) ∧
    (∀ p d, Event.dir p d ∉ opTrace s t)

/-- No host operation clocks the wire in Unknown, and in Reset only SYNC does; and so it is for every step, whatever
input it serves (a wire command at the frame port among them) and whatever happens during it but a further request
(40_bit_engine R110). -/
def Obligations.NoClockBeforeTheHandshake : Prop :=
  (∀ (i : Instr) (s t : State), isHostOp i = true → exec i s = .next t →
    (s.ts = .unknown → pulseCount (opTrace s t) = 0) ∧ (s.ts = .reset → i ≠ .sync → pulseCount (opTrace s t) = 0)) ∧
  ∀ (s t : State) (x : Input) (rest : List Input), s.inbox = x :: rest →
    (∀ h ∈ happenings x, ∀ r, h.what ≠ .request r) → step s = .next t →
    (s.ts = .unknown → pulseCount (opTrace s t) = 0) ∧
    (s.ts = .reset →
      (∀ a d l, x ≠ .request ⟨0x1, a, d⟩ ∧ x ≠ .requestIfOk ⟨0x1, a, d⟩ ∧ x ≠ .requestDuring ⟨0x1, a, d⟩ l) →
      pulseCount (opTrace s t) = 0)

/-- Every host operation ends: `BUSY` 0, RESULT written with a line of 60_exceptions R182 or OK, and what is not the
operation's is untouched (10_state R28, R29; 60_exceptions R183, R186). -/
def Obligations.EveryHostOperationEnds : Prop :=
  ∀ (i : Instr) (s : State), isHostOp i = true →
    ∃ t, exec i s = .next t ∧ t.busy = false ∧ t.resKind.isSome ∧ t.resCause.isSome ∧
      resultLegal t.resKind t.resCause t.resData ∧ t.cfg = s.cfg ∧ t.framerRet = s.framerRet ∧ t.inbox = s.inbox ∧
      t.hostSees = s.hostSees ∧ t.others = s.others ∧ t.dirDsi = s.dirDsi ∧ t.dirDso = s.dirDso ∧
      t.dirDsclk = s.dirDsclk ∧ t.dirBkpt = s.dirBkpt ∧ t.dirReset = s.dirReset ∧ (i ≠ .sync → t.lvBkpt = s.lvBkpt) ∧
      (i ≠ .resetTarget → t.lvReset = s.lvReset)

/-- RESULT.DATA holds a value after READ_MEM32 or READ_REG that ends OK and after a refused ENTER_DEBUG, and after no
other outcome (10_state R30). -/
def Obligations.DataOnlyAfterReadsAndRefusals : Prop :=
  ∀ (i : Instr) (s t : State), isHostOp i = true → exec i s = .next t →
    (t.resData.isSome ↔
      (((∃ a, i = .readMem32 a) ∨ (∃ r, i = .readReg r)) ∧ t.resKind = some 0) ∨
      (i = .enterDebug ∧ t.resKind = some 2 ∧ t.resCause = some 8))

/-- The latches, the directions and the target's remaining answers are what the trace makes of them (10_state R24,
R25; 00_scope R14). -/
def Obligations.PinsFollowTheTrace : Prop :=
  ∀ (i : Instr) (s t : State), exec i s = .next t →
    let u := emits (opTrace s t) s
    t.trace = u.trace ∧ t.dso = u.dso ∧ t.lvDsi = u.lvDsi ∧ t.lvDsclk = u.lvDsclk ∧ t.lvBkpt = u.lvBkpt ∧
    t.lvReset = u.lvReset ∧ t.dirDsi = u.dirDsi ∧ t.dirDso = u.dirDso ∧ t.dirDsclk = u.dirDsclk ∧
    t.dirBkpt = u.dirBkpt ∧ t.dirReset = u.dirReset

/-- Every event of an operation comes before every event of the next (20_memory R61). -/
def Obligations.OperationsDoNotOverlap : Prop :=
  ∀ (i j : Instr) (s t u : State), exec i s = .next t → exec j t = .next u →
    opTrace s u = opTrace s t ++ opTrace t u

/-- The transient registers at the start of an instruction are never observed: two states that differ only there
lead to states that differ only there (10_state R31). For CMD_POLL, which takes its W from it, the model's field `pend` is
the same (assumption log, entry 7). -/
def Obligations.TransientsAreUnobservable : Prop :=
  ∀ (i : Instr) (s s' : State), (i = .cmdPoll → s.pend = s'.pend) → scrub s = scrub s' →
    ∃ t t', exec i s = .next t ∧ exec i s' = .next t' ∧ scrub t = scrub t'

/-- No operation depends on a duration (70_reset_and_hazards R214, 40_bit_engine R104), nor on the PINMAP: that half is the
model's reading (assumption log, entry 21, DEDUCED: events name logical lines, 60_exceptions R192, and PINMAP is read only
to refuse shared lines and to check that it is injective). -/
def Obligations.NoRuleReadsADuration : Prop :=
  ∀ (i : Instr) (s : State) (c' : Config),
    ∃ t, exec i s = .next t ∧
      exec i { s with cfg := retimed s.cfg c' } = .next { t with cfg := retimed t.cfg c' }

/-- The exact pulse, sample and event counts of 70_reset_and_hazards R214. -/
def Obligations.CountsOfEveryOperation : Prop :=
  (∀ c s, opTrace s (engineReset c s) = resetEvents c ∧ (resetEvents c).length = 9 ∧
    pulseCount (resetEvents c) = 0 ∧ sampleCount (resetEvents c) = 0) ∧
  ∀ (i : Instr) (s t : State), isHostOp i = true → exec i s = .next t →
    let counts := fun (p r e : Nat) => pulseCount (opTrace s t) = p ∧ sampleCount (opTrace s t) = r ∧
      (opTrace s t).length = e
    (i = .resetTarget → counts 0 0 4) ∧ (i = .disconnect → counts 0 0 0) ∧
    ((t.resKind = some 4 ∨ t.resKind = some 5 ∨ t.resKind = some 6 ∨ t.resCause = some 4) → counts 0 0 0) ∧
    (i = .sync → s.ts = .reset → ∃ n, counts (s.cfg.syncPattern.width + n) n (5 + 6 * s.cfg.syncPattern.width + 5 * n) ∧
      (t.resKind ≠ some 0 → n = s.cfg.syncMaxCycles)) ∧
    (i = .enterDebug → s.ts = .synchronized → ∃ k ≤ s.cfg.retryMax,
      counts (33 + 33 * k) (17 + 17 * k) (183 + 183 * k) ∧ (t.resCause = some 3 → k = s.cfg.retryMax)) ∧
    (∀ a, i = .readMem32 a → a.toNat % 4 = 0 → s.ts = .debugMode → ∃ k ≤ s.cfg.retryMax,
      counts (81 + 49 * k) (33 + 33 * k) (455 + 263 * k) ∧ (t.resCause = some 3 → k = s.cfg.retryMax)) ∧
    (∀ a d, i = .writeMem32 a d → a.toNat % 4 = 0 → s.ts = .debugMode → counts 80 0 480) ∧
    (∀ r, i = .readReg r → r.toNat < s.cfg.regCount → s.ts = .debugMode → ∃ k ≤ s.cfg.retryMax,
      counts (49 + 49 * k) (33 + 33 * k) (263 + 263 * k) ∧ (t.resCause = some 3 → k = s.cfg.retryMax)) ∧
    (∀ r d, i = .writeReg r d → r.toNat < s.cfg.regCount → s.ts = .debugMode → counts 48 0 288)

/-! ### Engine reset and the host's side -/

/-- After engine reset every piece of state holds the value of 10_state R37, and the trace grew by the nine events
of 70_reset_and_hazards R200. -/
def Obligations.EngineResetLeavesRuleR37 : Prop :=
  ∀ (s : State) (c : Config) (rest : List Input), c.wf = true → (∀ m ∈ s.others, m.shares c.pinmap = false) →
    s.inbox = .engineReset c :: rest →
    ∃ t, step s = .next t ∧ t.cfg = c ∧ t.ts = .unknown ∧ t.lvDsclk = false ∧ t.lvDsi = false ∧
      t.lvBkpt = !c.bkptActive ∧ t.lvReset = !c.resetActive ∧ t.dirDsi = .output ∧ t.dirDsclk = .output ∧
      t.dirBkpt = .output ∧ t.dirReset = .output ∧ t.dirDso = .input ∧ t.busy = false ∧ t.resKind = none ∧
      t.resCause = none ∧ t.resData = none ∧ t.inbox = rest ∧ t.dso = s.dso ∧ t.hostSees = s.hostSees ∧
      t.others = s.others ∧ opTrace s t =
        [.wr .dsclk false, .wr .dsi false, .wr .bkpt (!c.bkptActive), .wr .reset (!c.resetActive),
         .dir .dsclk .output, .dir .dsi .output, .dir .bkpt .output, .dir .reset .output, .dir .dso .input]

/-- Engine reset does not assert RESET and does not pulse BKPT or DSCLK (70_reset_and_hazards R201). -/
def Obligations.EngineResetLeavesTheTargetAlone : Prop :=
  ∀ (c : Config) (s : State), Event.wr .reset c.resetActive ∉ opTrace s (engineReset c s) ∧
    Event.wr .bkpt c.bkptActive ∉ opTrace s (engineReset c s) ∧ Event.wr .dsclk true ∉ opTrace s (engineReset c s)

/-- Engine reset while an operation runs, after any reads of `BUSY`: the events of the operation so far, then those of the
reset sequence, and no event of the operation after it; no response, `TS` Unknown, so that the next READ_MEM32 of an
aligned address fails with a state error (70_reset_and_hazards R200, R207). -/
def Obligations.EngineResetCutsAnOperation : Prop :=
  ∀ (s u : State) (r : Request) (gaps : List Nat) (n : Nat) (c : Config) (i : Instr) (bits : List Bool) (a : Word)
    (rest : List Input),
    s.busy = false → c.wf = true → (∀ m ∈ s.others, m.shares c.pinmap = false) → a.toNat % 4 = 0 →
    s.inbox = .requestDuring r (readsOf .busy gaps ++ [⟨n, .engineReset c⟩]) :: rest →
    decodeRequest r = .instr i bits → exec i { s with inbox := rest } = .next u →
    ∃ t, step s = .next t ∧ opTrace s t = (opTrace s u).take (gaps.sum + n) ++ resetEvents c ∧ t.ts = .unknown ∧
      t.resKind = none ∧ t.resCause = none ∧ t.resData = none ∧ t.busy = false ∧ t.cfg = c ∧ t.inbox = rest ∧
      exec (.readMem32 a) t = .next (withResponse .unknown .memoryAccessError .stateError none t)

/-- Engine reset while the sequence of another one runs: the events of the first so far, then the whole sequence of the
second, and its configuration (70_reset_and_hazards R200: it may be asserted at any time). -/
def Obligations.EngineResetCutsEngineReset : Prop :=
  ∀ (s : State) (c c' : Config) (n : Nat) (rest : List Input), c.wf = true → c'.wf = true →
    (∀ m ∈ s.others, m.shares c.pinmap = false ∧ m.shares c'.pinmap = false) →
    s.inbox = .resetDuring c [⟨n, .engineReset c'⟩] :: rest →
    ∃ t, step s = .next t ∧ opTrace s t = (resetEvents c).take n ++ resetEvents c' ∧ t.cfg = c' ∧ t.ts = .unknown ∧
      t.resKind = none ∧ t.resCause = none ∧ t.resData = none ∧ t.busy = false ∧ t.inbox = rest

/-- A host that reads `BUSY` or `TS` any number of times while an operation runs sees `BUSY` 1 and the `TS` before it up to
the operation's last event, and `BUSY` 0 and the `TS` after it once its response is out; the operation is as without the
reads (10_state R28, R36). That `TS` keeps its value up to the last event is DEDUCED (assumption log, entry 10). -/
def Obligations.BusyIsSeenDuringAnOperation : Prop :=
  ∀ (s u : State) (r : Request) (gaps : List Nat) (i : Instr) (bits : List Bool) (rest : List Input),
    s.busy = false → decodeRequest r = .instr i bits → exec i { s with inbox := rest } = .next u →
    (s.inbox = .requestDuring r (readsOf .busy gaps) :: rest →
      step s = .next { u with hostSees := seen (opTrace s u).length 1 0 gaps s.hostSees }) ∧
    (s.inbox = .requestDuring r (readsOf .ts gaps) :: rest →
      step s = .next { u with
        hostSees := seen (opTrace s u).length (s.ts.code.setWidth 32) (u.ts.code.setWidth 32) gaps s.hostSees })

/-- The same while the engine reset sequence runs: `BUSY` 1 up to its ninth event and 0 after it, `TS` as before it and
then Unknown, which reads 0 (10_state R22, R28, R36; 70_reset_and_hazards R200). That `TS` keeps its value up to the ninth
event is DEDUCED from the order of R200's lines (assumption log, entry 10). -/
def Obligations.BusyIsSeenDuringEngineReset : Prop :=
  ∀ (s : State) (c : Config) (gaps : List Nat) (rest : List Input), c.wf = true →
    (∀ m ∈ s.others, m.shares c.pinmap = false) →
    (s.inbox = .resetDuring c (readsOf .busy gaps) :: rest →
      step s = .next { engineReset c { s with inbox := rest } with hostSees := seen 9 1 0 gaps s.hostSees }) ∧
    (s.inbox = .resetDuring c (readsOf .ts gaps) :: rest →
      step s = .next { engineReset c { s with inbox := rest } with
        hostSees := seen 9 (s.ts.code.setWidth 32) 0 gaps s.hostSees })

/-- A request presented while `BUSY` = 1 has no move (70_reset_and_hazards R206), also when it comes while an operation or
the engine reset sequence runs. That this holds of a reserved tag too is the model's choice (assumption log, entry 12). -/
def Obligations.RequestWhileBusyHasNoMove : Prop :=
  (∀ (s : State) (r : Request) (rest : List Input), s.busy = true → s.inbox = .request r :: rest →
    step s = .fault .requestWhileBusy) ∧
  (∀ (s u : State) (r r' : Request) (n : Nat) (i : Instr) (bits : List Bool) (l : List Happening) (rest : List Input),
    s.busy = false → decodeRequest r = .instr i bits → exec i { s with inbox := rest } = .next u →
    n ≤ (opTrace s u).length → s.inbox = .requestDuring r (⟨n, .request r'⟩ :: l) :: rest →
    step s = .fault .requestWhileBusy) ∧
  (∀ (s : State) (r : Request) (n : Nat) (c : Config) (l : List Happening) (rest : List Input), c.wf = true →
    (∀ m ∈ s.others, m.shares c.pinmap = false) → n ≤ 9 →
    s.inbox = .resetDuring c (⟨n, .request r⟩ :: l) :: rest → step s = .fault .requestWhileBusy)

/-- A host read of a RESULT field that holds no value is a fault, not 0 and not an old value (10_state R30,
60_exceptions R196), and so is one of a reserved kind (I18); a read of any output with a value gives that value,
zero-extended, and changes nothing else; `TS` and `BUSY` always have one (10_state R22, R28, R36). -/
def Obligations.ReadOfNoValueFaults : Prop :=
  ∀ (s : State) (rest : List Input),
    let gives := fun (v : Word) => step s = .next { s with inbox := rest, hostSees := v :: s.hostSees }
    (s.inbox = .hostRead .data :: rest →
      (s.resData = none → step s = .fault (.noValue .data)) ∧ (∀ d, s.resData = some d → gives d)) ∧
    (s.inbox = .hostRead .kind :: rest →
      (s.resKind = none → step s = .fault (.noValue .kind)) ∧
      (∀ k, s.resKind = some k → k.toNat < 8 → gives (k.setWidth 32)) ∧
      (∀ k, s.resKind = some k → 8 ≤ k.toNat → step s = .fault (.reservedKind k))) ∧
    (s.inbox = .hostRead .cause :: rest →
      (s.resCause = none → step s = .fault (.noValue .cause)) ∧ (∀ k, s.resCause = some k → gives (k.setWidth 32))) ∧
    (s.inbox = .hostRead .ts :: rest →
      (s.ts = .unknown → gives 0) ∧ (s.ts = .reset → gives 1) ∧ (s.ts = .synchronized → gives 2) ∧
      (s.ts = .debugMode → gives 3)) ∧
    (s.inbox = .hostRead .busy :: rest → gives (if s.busy then 1 else 0))

/-- A second engine on a line of this one or of one configured before is refused; one on lines of its own is known from
then on, and engine reset with a `PINMAP` that takes a line of it is refused (60_exceptions R193). The model's choice
(assumption log, entry 14, DESIGN CHOICE: 00_scope R9 says that a model may refuse): engine reset with a parameter set
that breaks R9, R8's ranges or the injectivity of PINMAP is refused, and this is looked at first. -/
def Obligations.BadConfigurationsRefused : Prop :=
  (∀ (s : State) (c : Config) (rest : List Input), c.wf = false → s.inbox = .engineReset c :: rest →
    step s = .refused .illFormedConfig) ∧
  (∀ (s : State) (m m' : PinMap) (p q : Line) (rest : List Input), m' = s.cfg.pinmap ∨ m' ∈ s.others →
    m.physical p = m'.physical q → s.inbox = .attachEngine m :: rest → step s = .refused .sharedLines) ∧
  (∀ (s : State) (m : PinMap) (rest : List Input),
    (∀ m', m' = s.cfg.pinmap ∨ m' ∈ s.others → ∀ p q : Line, m.physical p ≠ m'.physical q) →
    s.inbox = .attachEngine m :: rest → step s = .next { s with inbox := rest, others := m :: s.others }) ∧
  (∀ (s : State) (c : Config) (m : PinMap) (p q : Line) (rest : List Input), c.wf = true → m ∈ s.others →
    c.pinmap.physical p = m.physical q → s.inbox = .engineReset c :: rest → step s = .refused .sharedLines)

/-- When the next input is a request that decodes, the step is its instruction's meaning, the input taken. -/
def Obligations.StepRunsTheRequest : Prop :=
  ∀ (s : State) (r : Request) (i : Instr) (bits : List Bool) (rest : List Input), s.busy = false →
    s.inbox = .request r :: rest → decode s.cfg (.request r) = .instr i bits →
    step s = exec i { s with inbox := rest }

/-- When the next input is a command's bits that decode, and `TS` is one in which a rule calls the framer for it
(40_bit_engine R110), the step is its instruction's meaning, the input taken; in another `TS` it is refused. That a frame
can be an input, and that bits left over after it (`more`) are dropped, is the model's choice (assumption log, entry 6). -/
def Obligations.StepRunsTheFrame : Prop :=
  ∀ (s : State) (bits more : List Bool) (i : Instr) (rest : List Input), s.inbox = .frame bits :: rest →
    decode s.cfg (.frame bits) = .instr i more →
    (framerCalledIn i s.ts = true → step s = exec i { s with inbox := rest }) ∧
    (framerCalledIn i s.ts = false → step s = .refused (.framerNotCalled s.ts))

/-- An idle engine holds every latch and emits nothing (60_exceptions R195). -/
def Obligations.IdleEngineHoldsItsState : Prop :=
  ∀ s : State, s.inbox = [] → step s = .next s

/-- The later requests of `connect` are presented only after an OK (30_encoding R93). -/
def Obligations.ConnectStopsAtTheFirstError : Prop :=
  connectInputs = [.request ⟨0x0, 0, 0⟩, .requestIfOk ⟨0x1, 0, 0⟩, .requestIfOk ⟨0x2, 0, 0⟩] ∧
  ∀ (s : State) (r : Request) (i : Instr) (bits : List Bool) (rest : List Input), s.busy = false →
    s.inbox = .requestIfOk r :: rest → decodeRequest r = .instr i bits →
    (s.resKind = some 0 → step s = exec i { s with inbox := rest }) ∧
    (s.resKind ≠ some 0 → step s = .next { s with inbox := rest })

/-! ### The invariant -/

/-- Every step from an engine between operations leads to one: configuration well formed, not busy, DSCLK low, BKPT
and RESET released, directions as set at engine reset, RESULT legal, no line shared with another engine (00_scope R9;
10_state R24, R25, R28, R30, R35; 40_bit_engine R103; 60_exceptions R182, R193), whatever happens during the step. -/
def Obligations.StepKeepsTheEngineIdle : Prop :=
  ∀ s t : State, Idle s → step s = .next t → Idle t

/-- The machine right after engine reset with a configuration: the values of 10_state R37, the nine events of
70_reset_and_hazards R200 in the trace, no input; with a well-formed one it is between operations, and profile P0's is
well formed (00_scope R10). That `State.reset` takes P0 is the model's choice (assumption log, entry 1). -/
def Obligations.ResetIsIdle : Prop :=
  (∀ c : Config,
    (State.resetWith c).ts = .unknown ∧ (State.resetWith c).lvDsi = false ∧ (State.resetWith c).resKind = none ∧
    (State.resetWith c).resCause = none ∧ (State.resetWith c).resData = none ∧ (State.resetWith c).inbox = [] ∧
    (State.resetWith c).others = [] ∧
    (State.resetWith c).trace.reverse = resetEvents c ∧ (c.wf = true → Idle (State.resetWith c))) ∧
  Config.p0.wf = true ∧ State.reset = State.resetWith Config.p0 ∧ Idle State.reset
end

