-- ==== Sys2Proof/Laws/State.lean ====
section
/-! SUPPORT. One lemma per field per update of State, true by rfl; and the updates in one form. -/

namespace Sys2Proof.Machine

/-! ### emit -/

@[simp] theorem emit_cfg (e : Event) (s : State) : (emit e s).cfg = s.cfg := rfl
@[simp] theorem emit_ts (e : Event) (s : State) : (emit e s).ts = s.ts := rfl
@[simp] theorem emit_lvDsi (e : Event) (s : State) : (emit e s).lvDsi = levelAfter e .dsi s.lvDsi := rfl
@[simp] theorem emit_lvDsclk (e : Event) (s : State) : (emit e s).lvDsclk = levelAfter e .dsclk s.lvDsclk := rfl
@[simp] theorem emit_lvBkpt (e : Event) (s : State) : (emit e s).lvBkpt = levelAfter e .bkpt s.lvBkpt := rfl
@[simp] theorem emit_lvReset (e : Event) (s : State) : (emit e s).lvReset = levelAfter e .reset s.lvReset := rfl
@[simp] theorem emit_dirDsi (e : Event) (s : State) : (emit e s).dirDsi = dirAfter e .dsi s.dirDsi := rfl
@[simp] theorem emit_dirDso (e : Event) (s : State) : (emit e s).dirDso = dirAfter e .dso s.dirDso := rfl
@[simp] theorem emit_dirDsclk (e : Event) (s : State) : (emit e s).dirDsclk = dirAfter e .dsclk s.dirDsclk := rfl
@[simp] theorem emit_dirBkpt (e : Event) (s : State) : (emit e s).dirBkpt = dirAfter e .bkpt s.dirBkpt := rfl
@[simp] theorem emit_dirReset (e : Event) (s : State) : (emit e s).dirReset = dirAfter e .reset s.dirReset := rfl
@[simp] theorem emit_busy (e : Event) (s : State) : (emit e s).busy = s.busy := rfl
@[simp] theorem emit_resKind (e : Event) (s : State) : (emit e s).resKind = s.resKind := rfl
@[simp] theorem emit_resCause (e : Event) (s : State) : (emit e s).resCause = s.resCause := rfl
@[simp] theorem emit_resData (e : Event) (s : State) : (emit e s).resData = s.resData := rfl
@[simp] theorem emit_sh (e : Event) (s : State) : (emit e s).sh = s.sh := rfl
@[simp] theorem emit_nbit (e : Event) (s : State) : (emit e s).nbit = s.nbit := rfl
@[simp] theorem emit_polls (e : Event) (s : State) : (emit e s).polls = s.polls := rfl
@[simp] theorem emit_win (e : Event) (s : State) : (emit e s).win = s.win := rfl
@[simp] theorem emit_cyc (e : Event) (s : State) : (emit e s).cyc = s.cyc := rfl
@[simp] theorem emit_cmdw (e : Event) (s : State) : (emit e s).cmdw = s.cmdw := rfl
@[simp] theorem emit_opa (e : Event) (s : State) : (emit e s).opa = s.opa := rfl
@[simp] theorem emit_opd (e : Event) (s : State) : (emit e s).opd = s.opd := rfl
@[simp] theorem emit_pend (e : Event) (s : State) : (emit e s).pend = s.pend := rfl
@[simp] theorem emit_framerRet (e : Event) (s : State) : (emit e s).framerRet = s.framerRet := rfl
@[simp] theorem emit_trace (e : Event) (s : State) : (emit e s).trace = e :: s.trace := rfl
@[simp] theorem emit_dso (e : Event) (s : State) : (emit e s).dso = answersAfter e s.dso := rfl
@[simp] theorem emit_inbox (e : Event) (s : State) : (emit e s).inbox = s.inbox := rfl
@[simp] theorem emit_hostSees (e : Event) (s : State) : (emit e s).hostSees = s.hostSees := rfl
@[simp] theorem emit_others (e : Event) (s : State) : (emit e s).others = s.others := rfl

/-! ### accept -/

@[simp] theorem accept_cfg (s : State) : (accept s).cfg = s.cfg := rfl
@[simp] theorem accept_ts (s : State) : (accept s).ts = s.ts := rfl
@[simp] theorem accept_lvDsi (s : State) : (accept s).lvDsi = s.lvDsi := rfl
@[simp] theorem accept_lvDsclk (s : State) : (accept s).lvDsclk = s.lvDsclk := rfl
@[simp] theorem accept_lvBkpt (s : State) : (accept s).lvBkpt = s.lvBkpt := rfl
@[simp] theorem accept_lvReset (s : State) : (accept s).lvReset = s.lvReset := rfl
@[simp] theorem accept_dirDsi (s : State) : (accept s).dirDsi = s.dirDsi := rfl
@[simp] theorem accept_dirDso (s : State) : (accept s).dirDso = s.dirDso := rfl
@[simp] theorem accept_dirDsclk (s : State) : (accept s).dirDsclk = s.dirDsclk := rfl
@[simp] theorem accept_dirBkpt (s : State) : (accept s).dirBkpt = s.dirBkpt := rfl
@[simp] theorem accept_dirReset (s : State) : (accept s).dirReset = s.dirReset := rfl
@[simp] theorem accept_busy (s : State) : (accept s).busy = true := rfl
@[simp] theorem accept_resKind (s : State) : (accept s).resKind = s.resKind := rfl
@[simp] theorem accept_resCause (s : State) : (accept s).resCause = s.resCause := rfl
@[simp] theorem accept_resData (s : State) : (accept s).resData = s.resData := rfl
@[simp] theorem accept_sh (s : State) : (accept s).sh = s.sh := rfl
@[simp] theorem accept_nbit (s : State) : (accept s).nbit = s.nbit := rfl
@[simp] theorem accept_polls (s : State) : (accept s).polls = s.polls := rfl
@[simp] theorem accept_win (s : State) : (accept s).win = s.win := rfl
@[simp] theorem accept_cyc (s : State) : (accept s).cyc = s.cyc := rfl
@[simp] theorem accept_cmdw (s : State) : (accept s).cmdw = s.cmdw := rfl
@[simp] theorem accept_opa (s : State) : (accept s).opa = s.opa := rfl
@[simp] theorem accept_opd (s : State) : (accept s).opd = s.opd := rfl
@[simp] theorem accept_pend (s : State) : (accept s).pend = s.pend := rfl
@[simp] theorem accept_framerRet (s : State) : (accept s).framerRet = s.framerRet := rfl
@[simp] theorem accept_trace (s : State) : (accept s).trace = s.trace := rfl
@[simp] theorem accept_dso (s : State) : (accept s).dso = s.dso := rfl
@[simp] theorem accept_inbox (s : State) : (accept s).inbox = s.inbox := rfl
@[simp] theorem accept_hostSees (s : State) : (accept s).hostSees = s.hostSees := rfl
@[simp] theorem accept_others (s : State) : (accept s).others = s.others := rfl

/-! ### respond -/

@[simp] theorem respond_cfg (k : Kind) (c : Cause) (d : Option Word) (s : State) : (respond k c d s).cfg = s.cfg := rfl
@[simp] theorem respond_ts (k : Kind) (c : Cause) (d : Option Word) (s : State) : (respond k c d s).ts = s.ts := rfl
@[simp] theorem respond_lvDsi (k : Kind) (c : Cause) (d : Option Word) (s : State) : (respond k c d s).lvDsi = s.lvDsi := rfl
@[simp] theorem respond_lvDsclk (k : Kind) (c : Cause) (d : Option Word) (s : State) : (respond k c d s).lvDsclk = s.lvDsclk := rfl
@[simp] theorem respond_lvBkpt (k : Kind) (c : Cause) (d : Option Word) (s : State) : (respond k c d s).lvBkpt = s.lvBkpt := rfl
@[simp] theorem respond_lvReset (k : Kind) (c : Cause) (d : Option Word) (s : State) : (respond k c d s).lvReset = s.lvReset := rfl
@[simp] theorem respond_dirDsi (k : Kind) (c : Cause) (d : Option Word) (s : State) : (respond k c d s).dirDsi = s.dirDsi := rfl
@[simp] theorem respond_dirDso (k : Kind) (c : Cause) (d : Option Word) (s : State) : (respond k c d s).dirDso = s.dirDso := rfl
@[simp] theorem respond_dirDsclk (k : Kind) (c : Cause) (d : Option Word) (s : State) : (respond k c d s).dirDsclk = s.dirDsclk := rfl
@[simp] theorem respond_dirBkpt (k : Kind) (c : Cause) (d : Option Word) (s : State) : (respond k c d s).dirBkpt = s.dirBkpt := rfl
@[simp] theorem respond_dirReset (k : Kind) (c : Cause) (d : Option Word) (s : State) : (respond k c d s).dirReset = s.dirReset := rfl
@[simp] theorem respond_busy (k : Kind) (c : Cause) (d : Option Word) (s : State) : (respond k c d s).busy = false := rfl
@[simp] theorem respond_resKind (k : Kind) (c : Cause) (d : Option Word) (s : State) : (respond k c d s).resKind = some k.code := rfl
@[simp] theorem respond_resCause (k : Kind) (c : Cause) (d : Option Word) (s : State) : (respond k c d s).resCause = some c.code := rfl
@[simp] theorem respond_resData (k : Kind) (c : Cause) (d : Option Word) (s : State) : (respond k c d s).resData = d := rfl
@[simp] theorem respond_sh (k : Kind) (c : Cause) (d : Option Word) (s : State) : (respond k c d s).sh = s.sh := rfl
@[simp] theorem respond_nbit (k : Kind) (c : Cause) (d : Option Word) (s : State) : (respond k c d s).nbit = s.nbit := rfl
@[simp] theorem respond_polls (k : Kind) (c : Cause) (d : Option Word) (s : State) : (respond k c d s).polls = s.polls := rfl
@[simp] theorem respond_win (k : Kind) (c : Cause) (d : Option Word) (s : State) : (respond k c d s).win = s.win := rfl
@[simp] theorem respond_cyc (k : Kind) (c : Cause) (d : Option Word) (s : State) : (respond k c d s).cyc = s.cyc := rfl
@[simp] theorem respond_cmdw (k : Kind) (c : Cause) (d : Option Word) (s : State) : (respond k c d s).cmdw = s.cmdw := rfl
@[simp] theorem respond_opa (k : Kind) (c : Cause) (d : Option Word) (s : State) : (respond k c d s).opa = s.opa := rfl
@[simp] theorem respond_opd (k : Kind) (c : Cause) (d : Option Word) (s : State) : (respond k c d s).opd = s.opd := rfl
@[simp] theorem respond_pend (k : Kind) (c : Cause) (d : Option Word) (s : State) : (respond k c d s).pend = s.pend := rfl
@[simp] theorem respond_framerRet (k : Kind) (c : Cause) (d : Option Word) (s : State) : (respond k c d s).framerRet = s.framerRet := rfl
@[simp] theorem respond_trace (k : Kind) (c : Cause) (d : Option Word) (s : State) : (respond k c d s).trace = s.trace := rfl
@[simp] theorem respond_dso (k : Kind) (c : Cause) (d : Option Word) (s : State) : (respond k c d s).dso = s.dso := rfl
@[simp] theorem respond_inbox (k : Kind) (c : Cause) (d : Option Word) (s : State) : (respond k c d s).inbox = s.inbox := rfl
@[simp] theorem respond_hostSees (k : Kind) (c : Cause) (d : Option Word) (s : State) : (respond k c d s).hostSees = s.hostSees := rfl
@[simp] theorem respond_others (k : Kind) (c : Cause) (d : Option Word) (s : State) : (respond k c d s).others = s.others := rfl

/-! ### setTs -/

@[simp] theorem setTs_cfg (x : TargetState) (s : State) : (setTs x s).cfg = s.cfg := rfl
@[simp] theorem setTs_ts (x : TargetState) (s : State) : (setTs x s).ts = x := rfl
@[simp] theorem setTs_lvDsi (x : TargetState) (s : State) : (setTs x s).lvDsi = s.lvDsi := rfl
@[simp] theorem setTs_lvDsclk (x : TargetState) (s : State) : (setTs x s).lvDsclk = s.lvDsclk := rfl
@[simp] theorem setTs_lvBkpt (x : TargetState) (s : State) : (setTs x s).lvBkpt = s.lvBkpt := rfl
@[simp] theorem setTs_lvReset (x : TargetState) (s : State) : (setTs x s).lvReset = s.lvReset := rfl
@[simp] theorem setTs_dirDsi (x : TargetState) (s : State) : (setTs x s).dirDsi = s.dirDsi := rfl
@[simp] theorem setTs_dirDso (x : TargetState) (s : State) : (setTs x s).dirDso = s.dirDso := rfl
@[simp] theorem setTs_dirDsclk (x : TargetState) (s : State) : (setTs x s).dirDsclk = s.dirDsclk := rfl
@[simp] theorem setTs_dirBkpt (x : TargetState) (s : State) : (setTs x s).dirBkpt = s.dirBkpt := rfl
@[simp] theorem setTs_dirReset (x : TargetState) (s : State) : (setTs x s).dirReset = s.dirReset := rfl
@[simp] theorem setTs_busy (x : TargetState) (s : State) : (setTs x s).busy = s.busy := rfl
@[simp] theorem setTs_resKind (x : TargetState) (s : State) : (setTs x s).resKind = s.resKind := rfl
@[simp] theorem setTs_resCause (x : TargetState) (s : State) : (setTs x s).resCause = s.resCause := rfl
@[simp] theorem setTs_resData (x : TargetState) (s : State) : (setTs x s).resData = s.resData := rfl
@[simp] theorem setTs_sh (x : TargetState) (s : State) : (setTs x s).sh = s.sh := rfl
@[simp] theorem setTs_nbit (x : TargetState) (s : State) : (setTs x s).nbit = s.nbit := rfl
@[simp] theorem setTs_polls (x : TargetState) (s : State) : (setTs x s).polls = s.polls := rfl
@[simp] theorem setTs_win (x : TargetState) (s : State) : (setTs x s).win = s.win := rfl
@[simp] theorem setTs_cyc (x : TargetState) (s : State) : (setTs x s).cyc = s.cyc := rfl
@[simp] theorem setTs_cmdw (x : TargetState) (s : State) : (setTs x s).cmdw = s.cmdw := rfl
@[simp] theorem setTs_opa (x : TargetState) (s : State) : (setTs x s).opa = s.opa := rfl
@[simp] theorem setTs_opd (x : TargetState) (s : State) : (setTs x s).opd = s.opd := rfl
@[simp] theorem setTs_pend (x : TargetState) (s : State) : (setTs x s).pend = s.pend := rfl
@[simp] theorem setTs_framerRet (x : TargetState) (s : State) : (setTs x s).framerRet = s.framerRet := rfl
@[simp] theorem setTs_trace (x : TargetState) (s : State) : (setTs x s).trace = s.trace := rfl
@[simp] theorem setTs_dso (x : TargetState) (s : State) : (setTs x s).dso = s.dso := rfl
@[simp] theorem setTs_inbox (x : TargetState) (s : State) : (setTs x s).inbox = s.inbox := rfl
@[simp] theorem setTs_hostSees (x : TargetState) (s : State) : (setTs x s).hostSees = s.hostSees := rfl
@[simp] theorem setTs_others (x : TargetState) (s : State) : (setTs x s).others = s.others := rfl

/-! ### stage -/

@[simp] theorem stage_cfg (cmd : Command) (s : State) : (stage cmd s).cfg = s.cfg := rfl
@[simp] theorem stage_ts (cmd : Command) (s : State) : (stage cmd s).ts = s.ts := rfl
@[simp] theorem stage_lvDsi (cmd : Command) (s : State) : (stage cmd s).lvDsi = s.lvDsi := rfl
@[simp] theorem stage_lvDsclk (cmd : Command) (s : State) : (stage cmd s).lvDsclk = s.lvDsclk := rfl
@[simp] theorem stage_lvBkpt (cmd : Command) (s : State) : (stage cmd s).lvBkpt = s.lvBkpt := rfl
@[simp] theorem stage_lvReset (cmd : Command) (s : State) : (stage cmd s).lvReset = s.lvReset := rfl
@[simp] theorem stage_dirDsi (cmd : Command) (s : State) : (stage cmd s).dirDsi = s.dirDsi := rfl
@[simp] theorem stage_dirDso (cmd : Command) (s : State) : (stage cmd s).dirDso = s.dirDso := rfl
@[simp] theorem stage_dirDsclk (cmd : Command) (s : State) : (stage cmd s).dirDsclk = s.dirDsclk := rfl
@[simp] theorem stage_dirBkpt (cmd : Command) (s : State) : (stage cmd s).dirBkpt = s.dirBkpt := rfl
@[simp] theorem stage_dirReset (cmd : Command) (s : State) : (stage cmd s).dirReset = s.dirReset := rfl
@[simp] theorem stage_busy (cmd : Command) (s : State) : (stage cmd s).busy = s.busy := rfl
@[simp] theorem stage_resKind (cmd : Command) (s : State) : (stage cmd s).resKind = s.resKind := rfl
@[simp] theorem stage_resCause (cmd : Command) (s : State) : (stage cmd s).resCause = s.resCause := rfl
@[simp] theorem stage_resData (cmd : Command) (s : State) : (stage cmd s).resData = s.resData := rfl
@[simp] theorem stage_sh (cmd : Command) (s : State) : (stage cmd s).sh = s.sh := rfl
@[simp] theorem stage_nbit (cmd : Command) (s : State) : (stage cmd s).nbit = s.nbit := rfl
@[simp] theorem stage_polls (cmd : Command) (s : State) : (stage cmd s).polls = s.polls := rfl
@[simp] theorem stage_win (cmd : Command) (s : State) : (stage cmd s).win = s.win := rfl
@[simp] theorem stage_cyc (cmd : Command) (s : State) : (stage cmd s).cyc = s.cyc := rfl
@[simp] theorem stage_cmdw (cmd : Command) (s : State) : (stage cmd s).cmdw = commandWord s.cfg cmd := rfl
@[simp] theorem stage_opa (cmd : Command) (s : State) : (stage cmd s).opa = (operandA cmd).getD s.opa := rfl
@[simp] theorem stage_opd (cmd : Command) (s : State) : (stage cmd s).opd = (operandD cmd).getD s.opd := rfl
@[simp] theorem stage_pend (cmd : Command) (s : State) : (stage cmd s).pend = responseWidth cmd := rfl
@[simp] theorem stage_framerRet (cmd : Command) (s : State) : (stage cmd s).framerRet = s.framerRet := rfl
@[simp] theorem stage_trace (cmd : Command) (s : State) : (stage cmd s).trace = s.trace := rfl
@[simp] theorem stage_dso (cmd : Command) (s : State) : (stage cmd s).dso = s.dso := rfl
@[simp] theorem stage_inbox (cmd : Command) (s : State) : (stage cmd s).inbox = s.inbox := rfl
@[simp] theorem stage_hostSees (cmd : Command) (s : State) : (stage cmd s).hostSees = s.hostSees := rfl
@[simp] theorem stage_others (cmd : Command) (s : State) : (stage cmd s).others = s.others := rfl

/-! ### scrub -/

@[simp] theorem scrub_cfg (s : State) : (scrub s).cfg = s.cfg := rfl
@[simp] theorem scrub_ts (s : State) : (scrub s).ts = s.ts := rfl
@[simp] theorem scrub_lvDsi (s : State) : (scrub s).lvDsi = s.lvDsi := rfl
@[simp] theorem scrub_lvDsclk (s : State) : (scrub s).lvDsclk = s.lvDsclk := rfl
@[simp] theorem scrub_lvBkpt (s : State) : (scrub s).lvBkpt = s.lvBkpt := rfl
@[simp] theorem scrub_lvReset (s : State) : (scrub s).lvReset = s.lvReset := rfl
@[simp] theorem scrub_dirDsi (s : State) : (scrub s).dirDsi = s.dirDsi := rfl
@[simp] theorem scrub_dirDso (s : State) : (scrub s).dirDso = s.dirDso := rfl
@[simp] theorem scrub_dirDsclk (s : State) : (scrub s).dirDsclk = s.dirDsclk := rfl
@[simp] theorem scrub_dirBkpt (s : State) : (scrub s).dirBkpt = s.dirBkpt := rfl
@[simp] theorem scrub_dirReset (s : State) : (scrub s).dirReset = s.dirReset := rfl
@[simp] theorem scrub_busy (s : State) : (scrub s).busy = s.busy := rfl
@[simp] theorem scrub_resKind (s : State) : (scrub s).resKind = s.resKind := rfl
@[simp] theorem scrub_resCause (s : State) : (scrub s).resCause = s.resCause := rfl
@[simp] theorem scrub_resData (s : State) : (scrub s).resData = s.resData := rfl
@[simp] theorem scrub_sh (s : State) : (scrub s).sh = 0 := rfl
@[simp] theorem scrub_nbit (s : State) : (scrub s).nbit = 0 := rfl
@[simp] theorem scrub_polls (s : State) : (scrub s).polls = 0 := rfl
@[simp] theorem scrub_win (s : State) : (scrub s).win = 0 := rfl
@[simp] theorem scrub_cyc (s : State) : (scrub s).cyc = 0 := rfl
@[simp] theorem scrub_cmdw (s : State) : (scrub s).cmdw = 0 := rfl
@[simp] theorem scrub_opa (s : State) : (scrub s).opa = 0 := rfl
@[simp] theorem scrub_opd (s : State) : (scrub s).opd = 0 := rfl
@[simp] theorem scrub_pend (s : State) : (scrub s).pend = none := rfl
@[simp] theorem scrub_framerRet (s : State) : (scrub s).framerRet = s.framerRet := rfl
@[simp] theorem scrub_trace (s : State) : (scrub s).trace = s.trace := rfl
@[simp] theorem scrub_dso (s : State) : (scrub s).dso = s.dso := rfl
@[simp] theorem scrub_inbox (s : State) : (scrub s).inbox = s.inbox := rfl
@[simp] theorem scrub_hostSees (s : State) : (scrub s).hostSees = s.hostSees := rfl
@[simp] theorem scrub_others (s : State) : (scrub s).others = s.others := rfl

/-! ### withResponse -/

@[simp] theorem withResponse_cfg (x : TargetState) (k : Kind) (c : Cause) (d : Option Word) (s : State) : (withResponse x k c d s).cfg = s.cfg := rfl
@[simp] theorem withResponse_ts (x : TargetState) (k : Kind) (c : Cause) (d : Option Word) (s : State) : (withResponse x k c d s).ts = x := rfl
@[simp] theorem withResponse_lvDsi (x : TargetState) (k : Kind) (c : Cause) (d : Option Word) (s : State) : (withResponse x k c d s).lvDsi = s.lvDsi := rfl
@[simp] theorem withResponse_lvDsclk (x : TargetState) (k : Kind) (c : Cause) (d : Option Word) (s : State) : (withResponse x k c d s).lvDsclk = s.lvDsclk := rfl
@[simp] theorem withResponse_lvBkpt (x : TargetState) (k : Kind) (c : Cause) (d : Option Word) (s : State) : (withResponse x k c d s).lvBkpt = s.lvBkpt := rfl
@[simp] theorem withResponse_lvReset (x : TargetState) (k : Kind) (c : Cause) (d : Option Word) (s : State) : (withResponse x k c d s).lvReset = s.lvReset := rfl
@[simp] theorem withResponse_dirDsi (x : TargetState) (k : Kind) (c : Cause) (d : Option Word) (s : State) : (withResponse x k c d s).dirDsi = s.dirDsi := rfl
@[simp] theorem withResponse_dirDso (x : TargetState) (k : Kind) (c : Cause) (d : Option Word) (s : State) : (withResponse x k c d s).dirDso = s.dirDso := rfl
@[simp] theorem withResponse_dirDsclk (x : TargetState) (k : Kind) (c : Cause) (d : Option Word) (s : State) : (withResponse x k c d s).dirDsclk = s.dirDsclk := rfl
@[simp] theorem withResponse_dirBkpt (x : TargetState) (k : Kind) (c : Cause) (d : Option Word) (s : State) : (withResponse x k c d s).dirBkpt = s.dirBkpt := rfl
@[simp] theorem withResponse_dirReset (x : TargetState) (k : Kind) (c : Cause) (d : Option Word) (s : State) : (withResponse x k c d s).dirReset = s.dirReset := rfl
@[simp] theorem withResponse_busy (x : TargetState) (k : Kind) (c : Cause) (d : Option Word) (s : State) : (withResponse x k c d s).busy = false := rfl
@[simp] theorem withResponse_resKind (x : TargetState) (k : Kind) (c : Cause) (d : Option Word) (s : State) : (withResponse x k c d s).resKind = some k.code := rfl
@[simp] theorem withResponse_resCause (x : TargetState) (k : Kind) (c : Cause) (d : Option Word) (s : State) : (withResponse x k c d s).resCause = some c.code := rfl
@[simp] theorem withResponse_resData (x : TargetState) (k : Kind) (c : Cause) (d : Option Word) (s : State) : (withResponse x k c d s).resData = d := rfl
@[simp] theorem withResponse_sh (x : TargetState) (k : Kind) (c : Cause) (d : Option Word) (s : State) : (withResponse x k c d s).sh = s.sh := rfl
@[simp] theorem withResponse_nbit (x : TargetState) (k : Kind) (c : Cause) (d : Option Word) (s : State) : (withResponse x k c d s).nbit = s.nbit := rfl
@[simp] theorem withResponse_polls (x : TargetState) (k : Kind) (c : Cause) (d : Option Word) (s : State) : (withResponse x k c d s).polls = s.polls := rfl
@[simp] theorem withResponse_win (x : TargetState) (k : Kind) (c : Cause) (d : Option Word) (s : State) : (withResponse x k c d s).win = s.win := rfl
@[simp] theorem withResponse_cyc (x : TargetState) (k : Kind) (c : Cause) (d : Option Word) (s : State) : (withResponse x k c d s).cyc = s.cyc := rfl
@[simp] theorem withResponse_cmdw (x : TargetState) (k : Kind) (c : Cause) (d : Option Word) (s : State) : (withResponse x k c d s).cmdw = s.cmdw := rfl
@[simp] theorem withResponse_opa (x : TargetState) (k : Kind) (c : Cause) (d : Option Word) (s : State) : (withResponse x k c d s).opa = s.opa := rfl
@[simp] theorem withResponse_opd (x : TargetState) (k : Kind) (c : Cause) (d : Option Word) (s : State) : (withResponse x k c d s).opd = s.opd := rfl
@[simp] theorem withResponse_pend (x : TargetState) (k : Kind) (c : Cause) (d : Option Word) (s : State) : (withResponse x k c d s).pend = s.pend := rfl
@[simp] theorem withResponse_framerRet (x : TargetState) (k : Kind) (c : Cause) (d : Option Word) (s : State) : (withResponse x k c d s).framerRet = s.framerRet := rfl
@[simp] theorem withResponse_trace (x : TargetState) (k : Kind) (c : Cause) (d : Option Word) (s : State) : (withResponse x k c d s).trace = s.trace := rfl
@[simp] theorem withResponse_dso (x : TargetState) (k : Kind) (c : Cause) (d : Option Word) (s : State) : (withResponse x k c d s).dso = s.dso := rfl
@[simp] theorem withResponse_inbox (x : TargetState) (k : Kind) (c : Cause) (d : Option Word) (s : State) : (withResponse x k c d s).inbox = s.inbox := rfl
@[simp] theorem withResponse_hostSees (x : TargetState) (k : Kind) (c : Cause) (d : Option Word) (s : State) : (withResponse x k c d s).hostSees = s.hostSees := rfl
@[simp] theorem withResponse_others (x : TargetState) (k : Kind) (c : Cause) (d : Option Word) (s : State) : (withResponse x k c d s).others = s.others := rfl

/-! ### resetStart -/

@[simp] theorem resetStart_cfg (c : Config) (s : State) : (resetStart c s).cfg = c := rfl
@[simp] theorem resetStart_ts (c : Config) (s : State) : (resetStart c s).ts = s.ts := rfl
@[simp] theorem resetStart_lvDsi (c : Config) (s : State) : (resetStart c s).lvDsi = s.lvDsi := rfl
@[simp] theorem resetStart_lvDsclk (c : Config) (s : State) : (resetStart c s).lvDsclk = s.lvDsclk := rfl
@[simp] theorem resetStart_lvBkpt (c : Config) (s : State) : (resetStart c s).lvBkpt = s.lvBkpt := rfl
@[simp] theorem resetStart_lvReset (c : Config) (s : State) : (resetStart c s).lvReset = s.lvReset := rfl
@[simp] theorem resetStart_dirDsi (c : Config) (s : State) : (resetStart c s).dirDsi = s.dirDsi := rfl
@[simp] theorem resetStart_dirDso (c : Config) (s : State) : (resetStart c s).dirDso = s.dirDso := rfl
@[simp] theorem resetStart_dirDsclk (c : Config) (s : State) : (resetStart c s).dirDsclk = s.dirDsclk := rfl
@[simp] theorem resetStart_dirBkpt (c : Config) (s : State) : (resetStart c s).dirBkpt = s.dirBkpt := rfl
@[simp] theorem resetStart_dirReset (c : Config) (s : State) : (resetStart c s).dirReset = s.dirReset := rfl
@[simp] theorem resetStart_busy (c : Config) (s : State) : (resetStart c s).busy = true := rfl
@[simp] theorem resetStart_resKind (c : Config) (s : State) : (resetStart c s).resKind = s.resKind := rfl
@[simp] theorem resetStart_resCause (c : Config) (s : State) : (resetStart c s).resCause = s.resCause := rfl
@[simp] theorem resetStart_resData (c : Config) (s : State) : (resetStart c s).resData = s.resData := rfl
@[simp] theorem resetStart_sh (c : Config) (s : State) : (resetStart c s).sh = s.sh := rfl
@[simp] theorem resetStart_nbit (c : Config) (s : State) : (resetStart c s).nbit = s.nbit := rfl
@[simp] theorem resetStart_polls (c : Config) (s : State) : (resetStart c s).polls = s.polls := rfl
@[simp] theorem resetStart_win (c : Config) (s : State) : (resetStart c s).win = s.win := rfl
@[simp] theorem resetStart_cyc (c : Config) (s : State) : (resetStart c s).cyc = s.cyc := rfl
@[simp] theorem resetStart_cmdw (c : Config) (s : State) : (resetStart c s).cmdw = s.cmdw := rfl
@[simp] theorem resetStart_opa (c : Config) (s : State) : (resetStart c s).opa = s.opa := rfl
@[simp] theorem resetStart_opd (c : Config) (s : State) : (resetStart c s).opd = s.opd := rfl
@[simp] theorem resetStart_pend (c : Config) (s : State) : (resetStart c s).pend = s.pend := rfl
@[simp] theorem resetStart_framerRet (c : Config) (s : State) : (resetStart c s).framerRet = s.framerRet := rfl
@[simp] theorem resetStart_trace (c : Config) (s : State) : (resetStart c s).trace = s.trace := rfl
@[simp] theorem resetStart_dso (c : Config) (s : State) : (resetStart c s).dso = s.dso := rfl
@[simp] theorem resetStart_inbox (c : Config) (s : State) : (resetStart c s).inbox = s.inbox := rfl
@[simp] theorem resetStart_hostSees (c : Config) (s : State) : (resetStart c s).hostSees = s.hostSees := rfl
@[simp] theorem resetStart_others (c : Config) (s : State) : (resetStart c s).others = s.others := rfl

/-! ### resetFinish -/

@[simp] theorem resetFinish_cfg (s : State) : (resetFinish s).cfg = s.cfg := rfl
@[simp] theorem resetFinish_ts (s : State) : (resetFinish s).ts = .unknown := rfl
@[simp] theorem resetFinish_lvDsi (s : State) : (resetFinish s).lvDsi = s.lvDsi := rfl
@[simp] theorem resetFinish_lvDsclk (s : State) : (resetFinish s).lvDsclk = s.lvDsclk := rfl
@[simp] theorem resetFinish_lvBkpt (s : State) : (resetFinish s).lvBkpt = s.lvBkpt := rfl
@[simp] theorem resetFinish_lvReset (s : State) : (resetFinish s).lvReset = s.lvReset := rfl
@[simp] theorem resetFinish_dirDsi (s : State) : (resetFinish s).dirDsi = s.dirDsi := rfl
@[simp] theorem resetFinish_dirDso (s : State) : (resetFinish s).dirDso = s.dirDso := rfl
@[simp] theorem resetFinish_dirDsclk (s : State) : (resetFinish s).dirDsclk = s.dirDsclk := rfl
@[simp] theorem resetFinish_dirBkpt (s : State) : (resetFinish s).dirBkpt = s.dirBkpt := rfl
@[simp] theorem resetFinish_dirReset (s : State) : (resetFinish s).dirReset = s.dirReset := rfl
@[simp] theorem resetFinish_busy (s : State) : (resetFinish s).busy = false := rfl
@[simp] theorem resetFinish_resKind (s : State) : (resetFinish s).resKind = none := rfl
@[simp] theorem resetFinish_resCause (s : State) : (resetFinish s).resCause = none := rfl
@[simp] theorem resetFinish_resData (s : State) : (resetFinish s).resData = none := rfl
@[simp] theorem resetFinish_sh (s : State) : (resetFinish s).sh = s.sh := rfl
@[simp] theorem resetFinish_nbit (s : State) : (resetFinish s).nbit = s.nbit := rfl
@[simp] theorem resetFinish_polls (s : State) : (resetFinish s).polls = s.polls := rfl
@[simp] theorem resetFinish_win (s : State) : (resetFinish s).win = s.win := rfl
@[simp] theorem resetFinish_cyc (s : State) : (resetFinish s).cyc = s.cyc := rfl
@[simp] theorem resetFinish_cmdw (s : State) : (resetFinish s).cmdw = s.cmdw := rfl
@[simp] theorem resetFinish_opa (s : State) : (resetFinish s).opa = s.opa := rfl
@[simp] theorem resetFinish_opd (s : State) : (resetFinish s).opd = s.opd := rfl
@[simp] theorem resetFinish_pend (s : State) : (resetFinish s).pend = none := rfl
@[simp] theorem resetFinish_framerRet (s : State) : (resetFinish s).framerRet = none := rfl
@[simp] theorem resetFinish_trace (s : State) : (resetFinish s).trace = s.trace := rfl
@[simp] theorem resetFinish_dso (s : State) : (resetFinish s).dso = s.dso := rfl
@[simp] theorem resetFinish_inbox (s : State) : (resetFinish s).inbox = s.inbox := rfl
@[simp] theorem resetFinish_hostSees (s : State) : (resetFinish s).hostSees = s.hostSees := rfl
@[simp] theorem resetFinish_others (s : State) : (resetFinish s).others = s.others := rfl

/-! ### addOther -/

@[simp] theorem addOther_cfg (m : PinMap) (s : State) : (addOther m s).cfg = s.cfg := rfl
@[simp] theorem addOther_ts (m : PinMap) (s : State) : (addOther m s).ts = s.ts := rfl
@[simp] theorem addOther_lvDsi (m : PinMap) (s : State) : (addOther m s).lvDsi = s.lvDsi := rfl
@[simp] theorem addOther_lvDsclk (m : PinMap) (s : State) : (addOther m s).lvDsclk = s.lvDsclk := rfl
@[simp] theorem addOther_lvBkpt (m : PinMap) (s : State) : (addOther m s).lvBkpt = s.lvBkpt := rfl
@[simp] theorem addOther_lvReset (m : PinMap) (s : State) : (addOther m s).lvReset = s.lvReset := rfl
@[simp] theorem addOther_dirDsi (m : PinMap) (s : State) : (addOther m s).dirDsi = s.dirDsi := rfl
@[simp] theorem addOther_dirDso (m : PinMap) (s : State) : (addOther m s).dirDso = s.dirDso := rfl
@[simp] theorem addOther_dirDsclk (m : PinMap) (s : State) : (addOther m s).dirDsclk = s.dirDsclk := rfl
@[simp] theorem addOther_dirBkpt (m : PinMap) (s : State) : (addOther m s).dirBkpt = s.dirBkpt := rfl
@[simp] theorem addOther_dirReset (m : PinMap) (s : State) : (addOther m s).dirReset = s.dirReset := rfl
@[simp] theorem addOther_busy (m : PinMap) (s : State) : (addOther m s).busy = s.busy := rfl
@[simp] theorem addOther_resKind (m : PinMap) (s : State) : (addOther m s).resKind = s.resKind := rfl
@[simp] theorem addOther_resCause (m : PinMap) (s : State) : (addOther m s).resCause = s.resCause := rfl
@[simp] theorem addOther_resData (m : PinMap) (s : State) : (addOther m s).resData = s.resData := rfl
@[simp] theorem addOther_sh (m : PinMap) (s : State) : (addOther m s).sh = s.sh := rfl
@[simp] theorem addOther_nbit (m : PinMap) (s : State) : (addOther m s).nbit = s.nbit := rfl
@[simp] theorem addOther_polls (m : PinMap) (s : State) : (addOther m s).polls = s.polls := rfl
@[simp] theorem addOther_win (m : PinMap) (s : State) : (addOther m s).win = s.win := rfl
@[simp] theorem addOther_cyc (m : PinMap) (s : State) : (addOther m s).cyc = s.cyc := rfl
@[simp] theorem addOther_cmdw (m : PinMap) (s : State) : (addOther m s).cmdw = s.cmdw := rfl
@[simp] theorem addOther_opa (m : PinMap) (s : State) : (addOther m s).opa = s.opa := rfl
@[simp] theorem addOther_opd (m : PinMap) (s : State) : (addOther m s).opd = s.opd := rfl
@[simp] theorem addOther_pend (m : PinMap) (s : State) : (addOther m s).pend = s.pend := rfl
@[simp] theorem addOther_framerRet (m : PinMap) (s : State) : (addOther m s).framerRet = s.framerRet := rfl
@[simp] theorem addOther_trace (m : PinMap) (s : State) : (addOther m s).trace = s.trace := rfl
@[simp] theorem addOther_dso (m : PinMap) (s : State) : (addOther m s).dso = s.dso := rfl
@[simp] theorem addOther_inbox (m : PinMap) (s : State) : (addOther m s).inbox = s.inbox := rfl
@[simp] theorem addOther_hostSees (m : PinMap) (s : State) : (addOther m s).hostSees = s.hostSees := rfl
@[simp] theorem addOther_others (m : PinMap) (s : State) : (addOther m s).others = m :: s.others := rfl

/-! ### emits: every field that is no pin, trace or answer -/

@[simp] theorem emits_cfg (es : List Event) (s : State) : (emits es s).cfg = s.cfg := by
  induction es generalizing s with
  | nil => rfl
  | cons e es ih => exact ih (emit e s)
@[simp] theorem emits_ts (es : List Event) (s : State) : (emits es s).ts = s.ts := by
  induction es generalizing s with
  | nil => rfl
  | cons e es ih => exact ih (emit e s)
@[simp] theorem emits_busy (es : List Event) (s : State) : (emits es s).busy = s.busy := by
  induction es generalizing s with
  | nil => rfl
  | cons e es ih => exact ih (emit e s)
@[simp] theorem emits_resKind (es : List Event) (s : State) : (emits es s).resKind = s.resKind := by
  induction es generalizing s with
  | nil => rfl
  | cons e es ih => exact ih (emit e s)
@[simp] theorem emits_resCause (es : List Event) (s : State) : (emits es s).resCause = s.resCause := by
  induction es generalizing s with
  | nil => rfl
  | cons e es ih => exact ih (emit e s)
@[simp] theorem emits_resData (es : List Event) (s : State) : (emits es s).resData = s.resData := by
  induction es generalizing s with
  | nil => rfl
  | cons e es ih => exact ih (emit e s)
@[simp] theorem emits_sh (es : List Event) (s : State) : (emits es s).sh = s.sh := by
  induction es generalizing s with
  | nil => rfl
  | cons e es ih => exact ih (emit e s)
@[simp] theorem emits_nbit (es : List Event) (s : State) : (emits es s).nbit = s.nbit := by
  induction es generalizing s with
  | nil => rfl
  | cons e es ih => exact ih (emit e s)
@[simp] theorem emits_polls (es : List Event) (s : State) : (emits es s).polls = s.polls := by
  induction es generalizing s with
  | nil => rfl
  | cons e es ih => exact ih (emit e s)
@[simp] theorem emits_win (es : List Event) (s : State) : (emits es s).win = s.win := by
  induction es generalizing s with
  | nil => rfl
  | cons e es ih => exact ih (emit e s)
@[simp] theorem emits_cyc (es : List Event) (s : State) : (emits es s).cyc = s.cyc := by
  induction es generalizing s with
  | nil => rfl
  | cons e es ih => exact ih (emit e s)
@[simp] theorem emits_cmdw (es : List Event) (s : State) : (emits es s).cmdw = s.cmdw := by
  induction es generalizing s with
  | nil => rfl
  | cons e es ih => exact ih (emit e s)
@[simp] theorem emits_opa (es : List Event) (s : State) : (emits es s).opa = s.opa := by
  induction es generalizing s with
  | nil => rfl
  | cons e es ih => exact ih (emit e s)
@[simp] theorem emits_opd (es : List Event) (s : State) : (emits es s).opd = s.opd := by
  induction es generalizing s with
  | nil => rfl
  | cons e es ih => exact ih (emit e s)
@[simp] theorem emits_pend (es : List Event) (s : State) : (emits es s).pend = s.pend := by
  induction es generalizing s with
  | nil => rfl
  | cons e es ih => exact ih (emit e s)
@[simp] theorem emits_framerRet (es : List Event) (s : State) : (emits es s).framerRet = s.framerRet := by
  induction es generalizing s with
  | nil => rfl
  | cons e es ih => exact ih (emit e s)
@[simp] theorem emits_inbox (es : List Event) (s : State) : (emits es s).inbox = s.inbox := by
  induction es generalizing s with
  | nil => rfl
  | cons e es ih => exact ih (emit e s)
@[simp] theorem emits_hostSees (es : List Event) (s : State) : (emits es s).hostSees = s.hostSees := by
  induction es generalizing s with
  | nil => rfl
  | cons e es ih => exact ih (emit e s)
@[simp] theorem emits_others (es : List Event) (s : State) : (emits es s).others = s.others := by
  induction es generalizing s with
  | nil => rfl
  | cons e es ih => exact ih (emit e s)

end Sys2Proof.Machine
end

