-- ==== Sys2Proof/Laws/Trace.lean ====
section
/-! SUPPORT. What emitting events does: trace, answers, and everything else through `scrub`. -/

namespace Sys2Proof.Machine

theorem emits_append (es fs : List Event) (s : State) : emits (es ++ fs) s = emits fs (emits es s) := by
  induction es generalizing s with
  | nil => rfl
  | cons e es ih => exact ih (emit e s)

@[simp] theorem emits_nil (s : State) : emits [] s = s := rfl

theorem emits_cons (e : Event) (es : List Event) (s : State) : emits (e :: es) s = emits es (emit e s) := rfl

@[simp] theorem emits_trace (es : List Event) (s : State) : (emits es s).trace = es.reverse ++ s.trace := by
  induction es generalizing s with
  | nil => rfl
  | cons e es ih => simp [emits_cons, ih]

@[simp] theorem levelsRead_append (es fs : List Event) : levelsRead (es ++ fs) = levelsRead es ++ levelsRead fs := by
  induction es with
  | nil => rfl
  | cons e es ih => cases e <;> simp [levelsRead, ih]

/-- Every `RD` takes one listed answer. -/
@[simp] theorem emits_dso (es : List Event) (s : State) :
    (emits es s).dso = s.dso.drop (levelsRead es).length := by
  induction es generalizing s with
  | nil => rfl
  | cons e es ih => cases e <;> simp [emits_cons, ih, levelsRead, answersAfter]

theorem scrub_emit (e : Event) (s : State) : scrub (emit e s) = emit e (scrub s) := rfl

theorem scrub_emits (es : List Event) (s : State) : scrub (emits es s) = emits es (scrub s) := by
  induction es generalizing s with
  | nil => rfl
  | cons e es ih => simp [emits_cons, ih, scrub_emit]

@[simp] theorem scrub_scrub (s : State) : scrub (scrub s) = scrub s := rfl

/-- The events an operation added to the trace are its `opTrace`. -/
theorem opTrace_of_trace {s t : State} {es : List Event} (h : t.trace = es.reverse ++ s.trace) :
    opTrace s t = es := by
  simp [opTrace, h]


/-- `t` is `s` after the events `es`, as far as anyone outside can see. -/
def After (es : List Event) (s t : State) : Prop := scrub t = emits es (scrub s)

theorem After.trace_eq {es : List Event} {s t : State} (h : After es s t) : t.trace = es.reverse ++ s.trace := by
  have := congrArg State.trace h; simpa using this

theorem After.cfg_eq {es : List Event} {s t : State} (h : After es s t) : t.cfg = s.cfg := by
  have := congrArg State.cfg h; simpa using this

theorem After.dso_eq {es : List Event} {s t : State} (h : After es s t) :
    t.dso = s.dso.drop (levelsRead es).length := by
  have := congrArg State.dso h; simpa using this

theorem After.opTrace_eq {es : List Event} {s t : State} (h : After es s t) : opTrace s t = es :=
  opTrace_of_trace h.trace_eq

theorem After.refl (s : State) : After [] s s := rfl

theorem After.trans {es fs : List Event} {s t u : State} (h : After es s t) (g : After fs t u) :
    After (es ++ fs) s u := by
  unfold After at *; rw [g, h, emits_append]

/-- Events happened: whatever else was written to the transient registers. -/
theorem After.of_emits {es : List Event} {s t : State} (h : scrub t = scrub (emits es s)) : After es s t := by
  unfold After; rw [h, scrub_emits]

/-- The answers `bits` are what the target gave from `s` on: the listed ones, as far as the list goes. -/
def Taken (bits : List Bool) (s : State) : Prop := bits.take s.dso.length = s.dso.take bits.length

theorem Taken.nil (s : State) : Taken [] s := by simp [Taken]

/-- Answers taken one after the other. -/
theorem Taken.append {bits more : List Bool} {s t : State} (h : Taken bits s) (g : Taken more t)
    (ht : t.dso = s.dso.drop bits.length) : Taken (bits ++ more) s := by
  unfold Taken at *
  rw [ht] at g
  simp only [List.length_drop] at g
  rw [List.take_append, h, g, List.length_append, List.take_add]

end Sys2Proof.Machine
end

