-- ==== Sys2Proof/Laws/BitEngine.lean ====
section
/-! SUPPORT. What Pulse, ShiftOut and ShiftIn do, said once each. -/

namespace Sys2Proof.Machine

theorem pulse_spec (s : State) : pulse s = emits pulseEvents s := rfl

/-- `Pulse(true)` answers the level of its one `RD`. -/
theorem pulseSample_spec (s : State) :
    ∃ b, (pulseSample s).1 = b ∧ (pulseSample s).2 = emits (sampleEvents b) s ∧ Taken [b] s := by
  refine ⟨(pulseSample s).1, rfl, rfl, ?_⟩
  have hd : (clockHigh s).dso = s.dso := rfl
  unfold Taken
  show List.take _ [dsoLevel (clockHigh s)] = _
  unfold dsoLevel
  rw [hd]
  cases s.dso <;> simp

theorem shiftOutBits_spec (b : BitSeq) (k : Nat) (s : State) :
    After ((bitsDown b.value k).flatMap bitEvents) s (shiftOutBits b k s) := by
  induction k generalizing s with
  | zero => exact After.refl s
  | succ k ih =>
    have h : After (bitEvents (b.value.getLsbD k)) s
        { pulse (dly .setup (wr .dsi (b.value.getLsbD k) s)) with nbit := k } := After.of_emits rfl
    exact h.trans (ih _)

/-- `ShiftOut` is its events, most significant bit first (R105). -/
theorem shiftOut_spec (b : BitSeq) (s : State) : After (shiftOutEvents b) s (shiftOut b s) := by
  have h : After [] s { s with nbit := b.width } := After.of_emits rfl
  exact h.trans (shiftOutBits_spec b b.width _)

/-! ### Bits and values -/

@[simp] theorem bitsDown_length {n : Nat} (v : BitVec n) (k : Nat) : (bitsDown v k).length = k := by
  induction k with
  | zero => rfl
  | succ k ih => simp [bitsDown, ih]

@[simp] theorem wireBits_length (b : BitSeq) : (wireBits b).length = b.width := bitsDown_length _ _

theorem pushBit_toNat {n : Nat} (v : BitVec n) (b : Bool) :
    (pushBit v b).toNat = (2 * v.toNat + b.toNat) % 2 ^ n := by
  have h : pushBit v b = BitVec.ofNat n (2 * v.toNat + b.toNat) := by
    apply BitVec.eq_of_getLsbD_eq
    intro i hi
    simp only [pushBit, BitVec.getLsbD_or, BitVec.getLsbD_shiftLeft, BitVec.getLsbD_setWidth,
      BitVec.getLsbD_ofBool, BitVec.getLsbD_ofNat, hi, decide_true, Bool.true_and]
    cases i with
    | zero => cases b <;> simp [Nat.testBit_zero, Nat.add_mod]
    | succ i =>
      have : (2 * v.toNat + b.toNat).testBit (i + 1) = v.toNat.testBit i := by
        rw [Nat.testBit_succ]; congr 1; cases b <;> (simp; try omega)
      rw [this]
      simp [BitVec.getLsbD]
  rw [h, BitVec.toNat_ofNat]

/-- The number a list of bits spells, the first the most significant. -/
def bitsNat : Nat → List Bool → Nat
  | acc, [] => acc
  | acc, b :: bs => bitsNat (2 * acc + b.toNat) bs

theorem bitsNat_mod (m acc : Nat) (bs : List Bool) : bitsNat (acc % 2 ^ m) bs % 2 ^ m = bitsNat acc bs % 2 ^ m := by
  induction bs generalizing acc with
  | nil => simp [bitsNat]
  | cons b bs ih =>
    simp only [bitsNat]
    rw [← ih (2 * (acc % 2 ^ m) + b.toNat), ← ih (2 * acc + b.toNat)]
    congr 2
    rw [Nat.add_mod, Nat.mul_mod, Nat.mod_mod, ← Nat.mul_mod, ← Nat.add_mod]

theorem foldl_pushBit_toNat {n : Nat} (bs : List Bool) (v : BitVec n) :
    (bs.foldl pushBit v).toNat = bitsNat v.toNat bs % 2 ^ n := by
  induction bs generalizing v with
  | nil => simp [bitsNat, Nat.mod_eq_of_lt v.isLt]
  | cons b bs ih => simp only [List.foldl_cons, ih, pushBit_toNat, bitsNat_mod, bitsNat]

theorem ofWire_toNat (n : Nat) (bs : List Bool) : (ofWire n bs).toNat = bitsNat 0 bs % 2 ^ n := by
  simp [ofWire, foldl_pushBit_toNat]

theorem bitsNat_lt (bs : List Bool) (acc m : Nat) (h : acc < 2 ^ m) : bitsNat acc bs < 2 ^ (m + bs.length) := by
  induction bs generalizing acc m with
  | nil => simpa [bitsNat] using h
  | cons b bs ih =>
    have : 2 * acc + b.toNat < 2 ^ (m + 1) := by
      rw [Nat.pow_succ]; have := Bool.toNat_le b; omega
    have := ih _ _ this
    simpa [bitsNat, Nat.add_assoc, Nat.add_comm 1] using this

theorem bitsNat_append (bs cs : List Bool) (acc : Nat) : bitsNat acc (bs ++ cs) = bitsNat (bitsNat acc bs) cs := by
  induction bs generalizing acc with
  | nil => rfl
  | cons b bs ih => exact ih _

/-! ### ShiftIn -/

/-- The accumulator after the answers `bits`. -/
theorem accumulate_toNat (n : Nat) (hn : n ≤ 33) (sh : BitVec 33) (b : Bool) :
    (accumulate n sh b).toNat = (2 * sh.toNat + b.toNat) % 2 ^ n := by
  have h1 : 2 ^ n ∣ 2 ^ 33 := Nat.pow_dvd_pow 2 hn
  have h2 : (2 * sh.toNat + b.toNat) % 2 ^ 33 % 2 ^ n = (2 * sh.toNat + b.toNat) % 2 ^ n := Nat.mod_mod_of_dvd _ h1
  have h3 : (2 * sh.toNat + b.toNat) % 2 ^ n < 2 ^ 33 :=
    lt_of_lt_of_le (Nat.mod_lt _ (by positivity)) (Nat.pow_le_pow_right (by norm_num) hn)
  simp only [accumulate, BitVec.toNat_setWidth, pushBit_toNat, h2]
  exact Nat.mod_eq_of_lt h3

theorem shiftInBits_spec (n : Nat) (hn : n ≤ 33) (k : Nat) (s : State) :
    ∃ bits, bits.length = k ∧ After (bits.flatMap sampleEvents) s (shiftInBits n k s) ∧ Taken bits s ∧
      (shiftInBits n k s).sh.toNat % 2 ^ n = bitsNat s.sh.toNat bits % 2 ^ n := by
  induction k generalizing s with
  | zero => exact ⟨[], rfl, After.refl s, Taken.nil s, rfl⟩
  | succ k ih =>
    obtain ⟨b, hb, hs, hT⟩ := pulseSample_spec s
    obtain ⟨bits, hlen, hA, hT', hv⟩ :=
      ih { (pulseSample s).2 with sh := accumulate n (pulseSample s).2.sh (pulseSample s).1, nbit := k }
    have h1 : After (sampleEvents b) s
        { (pulseSample s).2 with sh := accumulate n (pulseSample s).2.sh (pulseSample s).1, nbit := k } := by
      rw [hs]; exact After.of_emits rfl
    refine ⟨b :: bits, by simp [hlen], h1.trans hA, ?_, ?_⟩
    · exact Taken.append hT hT' (by simpa [sampleEvents, levelsRead] using h1.dso_eq)
    · simp only [shiftInBits]
      rw [hv]
      simp only [accumulate_toNat n hn, hb, hs, emits_sh, bitsNat_mod, bitsNat]

/-- `ShiftIn(n)`: `n` answers of the target, most significant first (R106). -/
theorem shiftIn_spec (n : Nat) (hn : n ≤ 33) (s : State) :
    ∃ bits, bits.length = n ∧ (shiftIn n s).1 = ⟨n, ofWire n bits⟩ ∧
      After (shiftInEvents bits) s (shiftIn n s).2 ∧ Taken bits s := by
  obtain ⟨bits, hlen, hA, hT, hv⟩ :=
    shiftInBits_spec n hn n { dly .setup (wr .dsi false s) with sh := 0, nbit := n }
  have h1 : After [.wr .dsi false, .dly .setup] s { dly .setup (wr .dsi false s) with sh := 0, nbit := n } :=
    After.of_emits rfl
  refine ⟨bits, hlen, ?_, h1.trans hA, ?_⟩
  · simp only [shiftIn, BitSeq.mk.injEq, heq_eq_eq, true_and]
    apply BitVec.eq_of_toNat_eq
    rw [BitVec.toNat_setWidth, hv, ofWire_toNat]
    rfl
  · have hd : ({ dly .setup (wr .dsi false s) with sh := 0, nbit := n } : State).dso = s.dso := rfl
    unfold Taken at *
    rwa [hd] at hT

end Sys2Proof.Machine
end

