-- ==== Sys2Proof/Laws/Framer.lean ====
section
/-! SUPPORT. What SendCommand and RecvResponse do, said once each. -/

namespace Sys2Proof.Machine

/-! ### Response frames -/

theorem ofWire_succ_toNat {n : Nat} (b : Bool) (bits : List Bool) (h : bits.length = n) :
    (ofWire (1 + n) (b :: bits)).toNat = b.toNat * 2 ^ n + (ofWire n bits).toNat := by
  have key : ∀ (bs : List Bool) (acc : Nat), bitsNat acc bs = acc * 2 ^ bs.length + bitsNat 0 bs := by
    intro bs
    induction bs with
    | nil => intro acc; simp [bitsNat]
    | cons c cs ih =>
      intro acc
      have e0 := ih (2 * 0 + c.toNat)
      simp only [bitsNat, List.length_cons] at *
      rw [ih, e0, Nat.pow_succ]; ring
  have hlt : bitsNat 0 bits < 2 ^ n := by have := bitsNat_lt bits 0 0 (by simp); simpa [h] using this
  have hb := Bool.toNat_le b
  have hkey := key bits b.toNat
  rw [ofWire_toNat, ofWire_toNat, Nat.mod_eq_of_lt hlt]
  simp only [bitsNat, Nat.mul_zero, Nat.zero_add]
  rw [hkey, h]
  apply Nat.mod_eq_of_lt
  rw [Nat.pow_add]
  nlinarith [Nat.pow_pos (n := n) (show 0 < 2 by norm_num)]

/-- The status bit is the first bit received (30_encoding R81). -/
theorem notReady_ofWire (w : RespWidth) (b : Bool) (bits : List Bool) (h : bits.length = w.bits) :
    notReady w ⟨1 + w.bits, ofWire (1 + w.bits) (b :: bits)⟩ = b := by
  have hlt := (ofWire w.bits bits).isLt
  simp only [notReady, BitVec.getLsbD, ofWire_succ_toNat b bits h]
  rw [Nat.mul_comm, Nat.testBit_two_pow_mul_add _ hlt]
  cases b <;> simp

/-- The data field is the bits after it (30_encoding R81, R83). -/
theorem responseData_ofWire (w : RespWidth) (b : Bool) (bits : List Bool) (h : bits.length = w.bits) :
    responseData w ⟨1 + w.bits, ofWire (1 + w.bits) (b :: bits)⟩ = ⟨w.bits, ofWire w.bits bits⟩ := by
  have hlt := (ofWire w.bits bits).isLt
  simp only [responseData, BitSeq.mk.injEq, heq_eq_eq, true_and]
  apply BitVec.eq_of_toNat_eq
  rw [BitVec.toNat_setWidth, ofWire_succ_toNat b bits h, Nat.mul_comm, Nat.mul_add_mod, Nat.mod_eq_of_lt hlt]

theorem respWidth_le (w : RespWidth) : 1 + w.bits ≤ 33 := by cases w <;> decide

/-! ### Frames out -/

/-- A frame goes out field by field (30_encoding R74). -/
theorem sendFrame_spec (bs : List BitSeq) (s : State) : After (bs.flatMap shiftOutEvents) s (sendFrame bs s) := by
  induction bs generalizing s with
  | nil => exact After.refl s
  | cons b bs ih => exact (shiftOut_spec b s).trans (ih _)

@[simp] theorem levelsRead_flatMap_bitEvents (bits : List Bool) : levelsRead (bits.flatMap bitEvents) = [] := by
  induction bits with
  | nil => rfl
  | cons b bits ih => simp [ih, bitEvents, pulseEvents, levelsRead]

@[simp] theorem levelsRead_shiftOutEvents (b : BitSeq) : levelsRead (shiftOutEvents b) = [] :=
  levelsRead_flatMap_bitEvents _

@[simp] theorem levelsRead_frameEvents (c : Config) (cmd : Command) : levelsRead (frameEvents c cmd) = [] := by
  simp [frameEvents, frame, List.flatMap_map]
  induction operands cmd with
  | nil => rfl
  | cons a as ih => simp [ih]

@[simp] theorem levelsRead_sampleEvents (bits : List Bool) : levelsRead (bits.flatMap sampleEvents) = bits := by
  induction bits with
  | nil => rfl
  | cons b bits ih => simp [ih, sampleEvents, levelsRead]

@[simp] theorem levelsRead_shiftInEvents (bits : List Bool) : levelsRead (shiftInEvents bits) = bits := by
  simp [shiftInEvents, levelsRead]

/-! ### RecvResponse -/

/-- A poll: its word out, one response frame in (42_command_framer R152). -/
theorem pollOnce_spec (w : RespWidth) (s : State) :
    ∃ bits, bits.length = 1 + w.bits ∧ (pollOnce w s).1 = ⟨1 + w.bits, ofWire (1 + w.bits) bits⟩ ∧
      After (frameEvents s.cfg .poll ++ shiftInEvents bits) s (pollOnce w s).2 ∧ Taken bits s := by
  have hA := sendFrame_spec (frame s.cfg .poll) s
  obtain ⟨bits, hlen, h1, h2, hT⟩ := shiftIn_spec (1 + w.bits) (respWidth_le w) (sendFrame (frame s.cfg .poll) s)
  refine ⟨bits, hlen, h1, hA.trans h2, ?_⟩
  have hd := hA.dso_eq
  rw [show ((frame s.cfg .poll).flatMap shiftOutEvents) = frameEvents s.cfg .poll from rfl] at hd
  simp only [levelsRead_frameEvents, List.length_nil, List.drop_zero] at hd
  unfold Taken at *
  rwa [hd] at hT

theorem responseEvents_ready (c : Config) (w : RespWidth) (left : Nat) (bits : List Bool)
    (h : bits.head? ≠ some true) : responseEvents c w left bits = shiftInEvents (bits.take (1 + w.bits)) := by
  cases left <;> simp [responseEvents, h]

theorem answerOf_ready (w : RespWidth) (left : Nat) (bits : List Bool) (h : bits.head? ≠ some true) :
    answerOf w left bits = .data ⟨w.bits, ofWire w.bits ((bits.drop 1).take w.bits)⟩ := by
  cases left <;> simp [answerOf, h]

theorem framesTaken_ready (w : RespWidth) (left : Nat) (bits : List Bool) (h : bits.head? ≠ some true) :
    framesTaken w left bits = 1 := by
  cases left <;> simp [framesTaken, h]

/-- The poll loop, entered with the response frame `b :: bits` already in. -/
theorem pollLoop_spec (w : RespWidth) (left : Nat) (b : Bool) (bits : List Bool) (h : bits.length = w.bits)
    (s : State) :
    ∃ more evs, (pollLoop w left (⟨1 + w.bits, ofWire (1 + w.bits) (b :: bits)⟩, s)).1
        = answerOf w left (b :: bits ++ more) ∧
      After evs s (pollLoop w left (⟨1 + w.bits, ofWire (1 + w.bits) (b :: bits)⟩, s)).2 ∧
      shiftInEvents (b :: bits) ++ evs = responseEvents s.cfg w left (b :: bits ++ more) ∧
      levelsRead evs = more ∧
      (b :: bits ++ more).length = framesTaken w left (b :: bits ++ more) * (1 + w.bits) ∧ Taken more s := by
  have htake : ∀ more, (b :: bits ++ more).take (1 + w.bits) = b :: bits := by
    intro more; exact List.take_left' (by simp [h]; omega)
  have hdrop : ∀ more, (b :: bits ++ more).drop (1 + w.bits) = more := by
    intro more; exact List.drop_left' (by simp [h]; omega)
  have hlen : ∀ more, (b :: bits ++ more).length = (1 + w.bits) + more.length := by
    intro more; simp [h]; omega
  induction left generalizing b bits s with
  | zero =>
    refine ⟨[], [], ?_, ?_, ?_, rfl, ?_, Taken.nil s⟩
    · cases b
      · simp [pollLoop, notReady_ofWire w false bits h, responseData_ofWire w false bits h, answerOf, ← h]
      · simp [pollLoop, notReady_ofWire w true bits h, answerOf]
    · cases b
      · simp only [pollLoop, notReady_ofWire w false bits h]; exact After.of_emits rfl
      · simp only [pollLoop, notReady_ofWire w true bits h]; exact After.refl s
    · simp only [responseEvents, List.append_nil, List.take_of_length_le (show (b :: bits).length ≤ 1 + w.bits by simp only [List.length_cons]; omega)]
    · rw [hlen]; simp [framesTaken]
  | succ left ih =>
    cases b with
    | false =>
      refine ⟨[], [], ?_, ?_, ?_, rfl, ?_, Taken.nil s⟩
      · simp [pollLoop, notReady_ofWire w false bits h, responseData_ofWire w false bits h, answerOf, ← h]
      · simp only [pollLoop, notReady_ofWire w false bits h]; exact After.of_emits rfl
      · rw [responseEvents_ready _ _ _ _ (by simp), htake, List.append_nil]
      · rw [framesTaken_ready _ _ _ (by simp), hlen]; simp
    | true =>
      obtain ⟨pb, hpl, hp1, hpA, hpT⟩ := pollOnce_spec w { s with polls := s.polls + 1 }
      obtain ⟨c, cs, rfl⟩ : ∃ c cs, pb = c :: cs := by
        cases pb with
        | nil => simp at hpl; omega
        | cons c cs => exact ⟨c, cs, rfl⟩
      have hcs : cs.length = w.bits := by simp at hpl; omega
      have hpA' : After (frameEvents s.cfg .poll ++ shiftInEvents (c :: cs)) s
          (pollOnce w { s with polls := s.polls + 1 }).2 := hpA
      have hpT' : Taken (c :: cs) s := hpT
      obtain ⟨more, evs, h1, h2, h3, h4, h5, h6⟩ :=
        ih c cs hcs (pollOnce w { s with polls := s.polls + 1 }).2
          (fun more => List.take_left' (by simp [hcs]; omega)) (fun more => List.drop_left' (by simp [hcs]; omega))
          (fun more => by simp [hcs]; omega)
      have hunf : pollLoop w (left + 1) (⟨1 + w.bits, ofWire (1 + w.bits) (true :: bits)⟩, s)
          = pollLoop w left (⟨1 + w.bits, ofWire (1 + w.bits) (c :: cs)⟩,
              (pollOnce w { s with polls := s.polls + 1 }).2) := by
        rw [← hp1]; simp only [pollLoop, notReady_ofWire w true bits h]; rfl
      rw [hunf]
      refine ⟨c :: cs ++ more, (frameEvents s.cfg .poll ++ shiftInEvents (c :: cs)) ++ evs, ?_, ?_, ?_, ?_, ?_, ?_⟩
      · rw [h1]; conv_rhs => unfold answerOf
        rw [hdrop]; simp
      · exact hpA'.trans h2
      · rw [hpA'.cfg_eq] at h3
        conv_rhs => unfold responseEvents
        rw [htake, hdrop, ← h3]; simp
      · simp [h4]
      · rw [hlen, h5]; conv_rhs => unfold framesTaken
        rw [hdrop]; simp; ring
      · exact Taken.append hpT' h6 (by simpa using hpA'.dso_eq)

/-- `RecvResponse(W)`: what the target's answers mean, and the events (42_command_framer R146). -/
theorem recvResponse_spec (w : RespWidth) (s : State) :
    ∃ bits, (recvResponse w s).1 = answerOf w s.cfg.retryMax bits ∧
      After (responseEvents s.cfg w s.cfg.retryMax bits) s (recvResponse w s).2 ∧
      levelsRead (responseEvents s.cfg w s.cfg.retryMax bits) = bits ∧
      bits.length = framesTaken w s.cfg.retryMax bits * (1 + w.bits) ∧ Taken bits s := by
  obtain ⟨pb, hpl, hp1, hpA, hpT⟩ := shiftIn_spec (1 + w.bits) (respWidth_le w) s
  obtain ⟨c, cs, rfl⟩ : ∃ c cs, pb = c :: cs := by
    cases pb with
    | nil => simp at hpl; omega
    | cons c cs => exact ⟨c, cs, rfl⟩
  have hcs : cs.length = w.bits := by simp at hpl; omega
  have hcfg := hpA.cfg_eq
  obtain ⟨more, evs, h1, h2, h3, h4, h5, h6⟩ :=
    pollLoop_spec w s.cfg.retryMax c cs hcs { (shiftIn (1 + w.bits) s).2 with polls := 0 }
  have hunf : recvResponse w s = pollLoop w s.cfg.retryMax
      (⟨1 + w.bits, ofWire (1 + w.bits) (c :: cs)⟩, { (shiftIn (1 + w.bits) s).2 with polls := 0 }) := by
    simp only [recvResponse, hcfg, hp1]
  have h3' : shiftInEvents (c :: cs) ++ evs = responseEvents s.cfg w s.cfg.retryMax (c :: cs ++ more) := by
    rw [← hcfg]; rw [hcfg]; simpa [hcfg] using h3
  have hA' : After (shiftInEvents (c :: cs)) s { (shiftIn (1 + w.bits) s).2 with polls := 0 } := hpA
  refine ⟨c :: cs ++ more, ?_, ?_, ?_, h5, ?_⟩
  · rw [hunf, h1]
  · rw [hunf, ← h3']; exact hA'.trans h2
  · rw [← h3']; simp [h4]
  · exact Taken.append hpT h6 (by simpa using hpA.dso_eq)

/-! ### SendCommand -/

theorem after_stage (cmd : Command) (s : State) : After [] s (stage cmd s) := After.of_emits rfl

/-- A write-class command: its frame, and nothing read (42_command_framer R145). -/
theorem sendCommand_write (cmd : Command) (h : responseWidth cmd = none) (s : State) :
    (sendCommand cmd s).1 = .nothing ∧ After (frameEvents s.cfg cmd) s (sendCommand cmd s).2 := by
  have hA := (after_stage cmd s).trans (sendFrame_spec (frame s.cfg cmd) (stage cmd s))
  have hs : sendCommand cmd s = (.nothing, sendFrame (frame s.cfg cmd) (stage cmd s)) := by
    simp only [sendCommand, h]
  rw [hs]
  exact ⟨rfl, hA⟩

/-- A read-class command: its frame, then `RecvResponse` of its width (42_command_framer R145). -/
theorem sendCommand_read (cmd : Command) (w : RespWidth) (h : responseWidth cmd = some w) (s : State) :
    ∃ bits, (sendCommand cmd s).1 = answerOf w s.cfg.retryMax bits ∧
      After (frameEvents s.cfg cmd ++ responseEvents s.cfg w s.cfg.retryMax bits) s (sendCommand cmd s).2 ∧
      levelsRead (responseEvents s.cfg w s.cfg.retryMax bits) = bits ∧
      bits.length = framesTaken w s.cfg.retryMax bits * (1 + w.bits) ∧ Taken bits s := by
  have hA : After (frameEvents s.cfg cmd) s (sendFrame (frame s.cfg cmd) (stage cmd s)) :=
    (after_stage cmd s).trans (sendFrame_spec (frame s.cfg cmd) (stage cmd s))
  have hd := hA.dso_eq
  simp only [levelsRead_frameEvents, List.length_nil, List.drop_zero] at hd
  obtain ⟨bits, h1, h2, h3, h4, h5⟩ := recvResponse_spec w (sendFrame (frame s.cfg cmd) (stage cmd s))
  rw [hA.cfg_eq] at h1 h2 h3 h4
  simp only [sendCommand, h]
  refine ⟨bits, h1, hA.trans h2, h3, h4, ?_⟩
  unfold Taken at *
  rwa [hd] at h5

end Sys2Proof.Machine
end

