-- ==== Sys2Proof/Laws/SyncReset.lean ====
section
/-! SUPPORT. What SYNC's stimulus and acknowledgement window do, said once each. -/

namespace Sys2Proof.Machine

theorem huntCycle_spec (s : State) :
    ∃ b, After (sampleEvents b) s (huntCycle s) ∧ Taken [b] s ∧
      (huntCycle s).win = slide s.cfg.syncResponse.width s.win b ∧ (huntCycle s).cyc = s.cyc + 1 := by
  obtain ⟨b, hb, hs, hT⟩ := pulseSample_spec s
  have e : huntCycle s = { (pulseSample s).2 with
      win := slide (pulseSample s).2.cfg.syncResponse.width (pulseSample s).2.win (pulseSample s).1
      cyc := (pulseSample s).2.cyc + 1 } := rfl
  refine ⟨b, ?_, hT, ?_, ?_⟩
  · rw [e, hs]; exact After.of_emits rfl
  · rw [e, hs, hb]; simp
  · rw [e, hs]; simp

theorem slide_toNat (n : Nat) (hn : n ≤ 32) (win : Word) (b : Bool) :
    (slide n win b).toNat = (2 * win.toNat + b.toNat) % 2 ^ n := by
  have h1 : 2 ^ n ∣ 2 ^ 32 := Nat.pow_dvd_pow 2 hn
  have h3 : (2 * win.toNat + b.toNat) % 2 ^ n < 2 ^ 32 :=
    lt_of_lt_of_le (Nat.mod_lt _ (by positivity)) (Nat.pow_le_pow_right (by norm_num) hn)
  simp only [slide, BitVec.toNat_setWidth, pushBit_toNat, Nat.mod_mod_of_dvd _ h1]
  exact Nat.mod_eq_of_lt h3

/-- The window after `n` cycles holds the last `SYNC_RESP_W` answers: `hist` are all answers so far. -/
def WindowHolds (c : Config) (hist : List Bool) (s : State) : Prop :=
  s.cfg = c ∧ s.cyc = hist.length ∧ s.win.toNat = bitsNat 0 hist % 2 ^ c.syncResponse.width

theorem WindowHolds.step {c : Config} (hc : c.syncResponse.width ≤ 32) {hist : List Bool} {s : State}
    (h : WindowHolds c hist s) {b : Bool} (hA : (huntCycle s).cfg = s.cfg)
    (hw : (huntCycle s).win = slide s.cfg.syncResponse.width s.win b) (hcy : (huntCycle s).cyc = s.cyc + 1) :
    WindowHolds c (hist ++ [b]) (huntCycle s) := by
  obtain ⟨h1, h2, h3⟩ := h
  refine ⟨by rw [hA, h1], by simp [hcy, h2], ?_⟩
  rw [hw, h1, slide_toNat _ hc, h3, bitsNat_append]
  simp only [bitsNat]
  rw [Nat.add_mod, Nat.mul_mod, Nat.mod_mod, ← Nat.mul_mod, ← Nat.add_mod]

theorem bitsNat_drop_mod (bs : List Bool) (n : Nat) (h : n ≤ bs.length) :
    bitsNat 0 (bs.drop (bs.length - n)) % 2 ^ n = bitsNat 0 bs % 2 ^ n := by
  have key : ∀ (cs : List Bool) (acc : Nat), bitsNat acc cs % 2 ^ cs.length = bitsNat 0 cs % 2 ^ cs.length := by
    intro cs
    have hz : ∀ (ds : List Bool) (acc : Nat), bitsNat acc ds = acc * 2 ^ ds.length + bitsNat 0 ds := by
      intro ds
      induction ds with
      | nil => intro acc; simp [bitsNat]
      | cons d ds ih =>
        intro acc
        simp only [bitsNat, List.length_cons]
        rw [ih, ih (2 * 0 + d.toNat), Nat.pow_succ]; ring
    intro acc; rw [hz cs acc, Nat.mul_add_mod']
  have hl : (bs.drop (bs.length - n)).length = n := by simp; omega
  conv_rhs => rw [← List.take_append_drop (bs.length - n) bs, bitsNat_append]
  have := key (bs.drop (bs.length - n)) (bitsNat 0 (bs.take (bs.length - n)))
  rw [hl] at this
  exact this.symm

/-- The window test is the rule's: full, and the last answers equal `SYNC_RESPONSE` (30_encoding R84). -/
theorem windowMatches_iff {c : Config} (hc : c.syncResponse.width ≤ 32) {hist : List Bool} {s : State}
    (h : WindowHolds c hist s) (more : List Bool) :
    windowMatches s = true ↔ syncMatchAt c (hist ++ more) hist.length := by
  obtain ⟨h1, h2, h3⟩ := h
  have htake : (hist ++ more).take hist.length = hist := by simp
  unfold windowMatches syncMatchAt
  rw [h1, h2, htake, Bool.and_eq_true, decide_eq_true_eq, beq_iff_eq]
  refine and_congr_right (fun hle => ?_)
  have hd := bitsNat_drop_mod hist _ hle
  constructor
  · intro he
    apply BitVec.eq_of_toNat_eq
    have := congrArg BitVec.toNat he
    rw [h3, BitVec.toNat_setWidth, Nat.mod_eq_of_lt (lt_of_lt_of_le c.syncResponse.value.isLt
      (Nat.pow_le_pow_right (by norm_num) hc))] at this
    rw [ofWire_toNat, hd, this]
  · intro he
    apply BitVec.eq_of_toNat_eq
    have := congrArg BitVec.toNat he
    rw [ofWire_toNat, hd] at this
    rw [h3, this, BitVec.toNat_setWidth, Nat.mod_eq_of_lt (lt_of_lt_of_le c.syncResponse.value.isLt
      (Nat.pow_le_pow_right (by norm_num) hc))]

/-- The acknowledgement window (41_sync_reset R122, R123): it ends at the first match, or after `left` cycles. -/
theorem hunt_spec {c : Config} (hc : c.syncResponse.width ≤ 32) (left : Nat) (hist : List Bool) (s : State)
    (h : WindowHolds c hist s) :
    ∃ bits, After (bits.flatMap sampleEvents) s (hunt left s).2 ∧ Taken bits s ∧ bits.length ≤ left ∧
      (∀ n, hist.length < n → n < hist.length + bits.length → ¬ syncMatchAt c (hist ++ bits) n) ∧
      (if (hunt left s).1 then bits ≠ [] ∧ syncMatchAt c (hist ++ bits) (hist.length + bits.length)
       else bits.length = left ∧ (bits ≠ [] → ¬ syncMatchAt c (hist ++ bits) (hist.length + bits.length))) := by
  induction left generalizing hist s with
  | zero => exact ⟨[], After.refl s, Taken.nil s, le_refl _, by intro n h1 h2; simp at h2; omega, by simp [hunt]⟩
  | succ left ih =>
    obtain ⟨b, hA, hT, hw, hcy⟩ := huntCycle_spec s
    have hW := h.step hc hA.cfg_eq hw hcy
    by_cases hm : windowMatches (huntCycle s) = true
    · have e : hunt (left + 1) s = (true, huntCycle s) := by simp [hunt, hm]
      rw [e]
      refine ⟨[b], by simpa using hA, hT, by simp, by intro n h1 h2; simp at h2; omega, ?_⟩
      have := (windowMatches_iff hc hW []).1 hm
      simpa using this
    · have e : hunt (left + 1) s = hunt left (huntCycle s) := by simp [hunt, hm]
      rw [e]
      obtain ⟨bits, g1, g2, g3, g4, g5⟩ := ih (hist ++ [b]) (huntCycle s) hW
      have hno : ¬ syncMatchAt c (hist ++ b :: bits) (hist.length + 1) := by
        intro hh
        apply hm
        have := (windowMatches_iff hc hW bits).2
        simp only [List.append_assoc, List.singleton_append, List.length_append, List.length_singleton] at this
        exact this hh
      simp only [List.append_assoc, List.singleton_append, List.length_append, List.length_singleton] at g4 g5
      refine ⟨b :: bits, by simpa using hA.trans g1, ?_, by simpa using g3, ?_, ?_⟩
      · exact Taken.append hT g2 (by simpa [sampleEvents, levelsRead] using hA.dso_eq)
      · intro n h1 h2
        rcases Nat.lt_or_ge (hist.length + 1) n with h3 | h3
        · exact g4 n h3 (by simp at h2; omega)
        · have : n = hist.length + 1 := by omega
          rw [this]; exact hno
      · have e2 : hist.length + (b :: bits).length = hist.length + 1 + bits.length := by simp; omega
        rw [e2]
        by_cases hf : (hunt left (huntCycle s)).1 = true
        · simp only [hf, if_true] at g5 ⊢
          exact ⟨by simp, g5.2⟩
        · simp only [hf] at g5 ⊢
          refine ⟨by simp [g5.1], fun _ => ?_⟩
          by_cases hb : bits = []
          · subst hb; simpa using hno
          · exact g5.2 hb

/-- The stimulus: the BKPT pulse, the pattern, DSI at 0, an empty window (R122, R124). -/
theorem syncStimulus_spec (s : State) :
    After ([.wr .bkpt s.cfg.bkptActive, .dly .bkptHold, .wr .bkpt (!s.cfg.bkptActive)] ++
        shiftOutEvents s.cfg.syncPattern ++ [.wr .dsi false, .dly .setup]) s (syncStimulus s) ∧
      WindowHolds s.cfg [] (syncStimulus s) := by
  have h1 : After [.wr .bkpt s.cfg.bkptActive, .dly .bkptHold, .wr .bkpt (!s.cfg.bkptActive)] s
      (releaseLine .bkpt (dly .bkptHold (assertLine .bkpt s))) := After.of_emits rfl
  have h2 := shiftOut_spec (releaseLine .bkpt (dly .bkptHold (assertLine .bkpt s))).cfg.syncPattern
    (releaseLine .bkpt (dly .bkptHold (assertLine .bkpt s)))
  have hc : (releaseLine .bkpt (dly .bkptHold (assertLine .bkpt s))).cfg = s.cfg := rfl
  have h3 : After [.wr .dsi false, .dly .setup]
      (shiftOut (releaseLine .bkpt (dly .bkptHold (assertLine .bkpt s))).cfg.syncPattern
        (releaseLine .bkpt (dly .bkptHold (assertLine .bkpt s)))) (syncStimulus s) := After.of_emits rfl
  have hA := (h1.trans h2).trans h3
  rw [hc] at hA
  refine ⟨hA, hA.cfg_eq, rfl, ?_⟩
  show (0 : Word).toNat = _
  simp [bitsNat]

end Sys2Proof.Machine
end

