-- ==== Sys2Proof/Laws/Access.lean ====
section
/-! SUPPORT. The operand checks, how an operation ends, and what an access, ENTER_DEBUG and SYNC leave behind. -/

namespace Sys2Proof.Machine

theorem aligned4_iff (a : Word) : aligned4 a = true ↔ a.toNat % 4 = 0 := by
  unfold aligned4
  rw [beq_iff_eq]
  constructor
  · intro h
    simpa using congrArg BitVec.toNat h
  · intro h
    apply BitVec.eq_of_toNat_eq
    simpa using h

theorem validIndex_iff (c : Config) (i : Word) : validIndex c i = true ↔ i.toNat < c.regCount := by simp [validIndex]

theorem emits_setBusy (es : List Event) (s : State) (b : Bool) :
    emits es { s with busy := b } = { emits es s with busy := b } := by
  induction es generalizing s with
  | nil => rfl
  | cons e es ih => exact ih (emit e s)

/-- An operation that emitted `es` since it was accepted and then ends with `TS` set. -/
theorem respond_after (x : TargetState) (k : Kind) (c : Cause) (d : Option Word) {es : List Event} {s u : State}
    (h : After es (accept s) u) :
    scrub (respond k c d (setTs x u)) = withResponse x k c d (emits es (scrub s)) := by
  have e : scrub (respond k c d (setTs x u)) = respond k c d (setTs x (scrub u)) := rfl
  have e2 : scrub (accept s) = { scrub s with busy := true } := rfl
  rw [e, h, e2, emits_setBusy]; rfl

/-- The same, where `TS` stays. -/
theorem respond_after_same (k : Kind) (c : Cause) (d : Option Word) {es : List Event} {s u : State}
    (h : After es (accept s) u) : scrub (respond k c d u) = withResponse s.ts k c d (emits es (scrub s)) := by
  have e : scrub (respond k c d u) = respond k c d (scrub u) := rfl
  have e2 : scrub (accept s) = { scrub s with busy := true } := rfl
  rw [e, h, e2, emits_setBusy]
  simp [respond, withResponse]

/-- What the answers mean is a time-out or data of the width asked for (42_command_framer R146). -/
theorem answerOf_cases (w : RespWidth) (left : Nat) (bits : List Bool) :
    answerOf w left bits = .timeout ∨ ∃ v : BitVec w.bits, answerOf w left bits = .data ⟨w.bits, v⟩ := by
  induction left generalizing bits with
  | zero => unfold answerOf; split <;> simp
  | succ n ih =>
    unfold answerOf
    split
    · exact ih _
    · simp

/-- An access is its operand check, its state check, and one command (43_access_layer R160). -/
theorem access_cases (ok : Bool) (bad : Kind) (cmd : Command) (done : FramerRet × State → State) (s : State) :
    (ok = false ∧ access ok bad cmd done s = raise bad .none s) ∨
    (ok = true ∧ s.ts ≠ .debugMode ∧ access ok bad cmd done s = raise .memoryAccessError .stateError s) ∨
    (ok = true ∧ s.ts = .debugMode ∧ access ok bad cmd done s = done (sendCommand cmd s)) := by
  unfold access
  cases ok
  · exact .inl ⟨rfl, rfl⟩
  · by_cases h : s.ts = .debugMode
    · exact .inr (.inr ⟨rfl, h, by simp [h]⟩)
    · exact .inr (.inl ⟨rfl, h, by simp [h]⟩)

end Sys2Proof.Machine
end

