-- ==== Sys2Proof/Laws/Encoding.lean ====
section
/-! SUPPORT. Bits in wire order and values: each gives the other back; fields taken from a frame. -/

namespace Sys2Proof.Machine

theorem bitsNat_bitsDown {n : Nat} (v : BitVec n) (k acc : Nat) :
    bitsNat acc (bitsDown v k) = acc * 2 ^ k + v.toNat % 2 ^ k := by
  induction k generalizing acc with
  | zero => simp [bitsDown, bitsNat, Nat.mod_one]
  | succ k ih =>
    have h : v.toNat % 2 ^ (k + 1) = (v.getLsbD k).toNat * 2 ^ k + v.toNat % 2 ^ k := by
      rw [BitVec.getLsbD, Nat.testBit_eq_decide_div_mod_eq, Nat.pow_succ, Nat.mod_mul, Nat.add_comm, Nat.mul_comm]
      rcases Nat.mod_two_eq_zero_or_one (v.toNat / 2 ^ k) with h | h <;> simp [h]
    simp only [bitsDown, bitsNat]
    rw [ih, h, Nat.pow_succ]; ring

/-- Bit `k` on the wire is bit `m - 1 - k` of the value (00_scope R12). -/
theorem bitsDown_getElem {n : Nat} (v : BitVec n) (m k : Nat) (h : k < m) :
    (bitsDown v m)[k]? = some (v.getLsbD (m - 1 - k)) := by
  induction m generalizing k with
  | zero => omega
  | succ m ih =>
    cases k with
    | zero => simp [bitsDown]
    | succ k => simp only [bitsDown, List.getElem?_cons_succ]; rw [ih k (by omega)]; congr 2; omega

/-- Reading back the wire order of a BitSequence gives its value. -/
theorem ofWire_wireBits (b : BitSeq) : ofWire b.width (wireBits b) = b.value := by
  apply BitVec.eq_of_toNat_eq
  rw [ofWire_toNat, wireBits, bitsNat_bitsDown]
  simp [Nat.mod_eq_of_lt b.value.isLt]

/-- Sending the value of `n` bits sends those bits. -/
theorem wireBits_ofWire (n : Nat) (bits : List Bool) (h : bits.length = n) : wireBits ⟨n, ofWire n bits⟩ = bits := by
  have inj : ∀ (l m : List Bool) (a : Nat), l.length = m.length → bitsNat a l = bitsNat a m → l = m := by
    intro l
    induction l with
    | nil => intro m a hl _; exact (List.length_eq_zero_iff.1 hl.symm).symm
    | cons b bs ih =>
      intro m a hl he
      cases m with
      | nil => simp at hl
      | cons c cs =>
        have hl' : bs.length = cs.length := by simpa using hl
        have grow : ∀ (l : List Bool) (x : Nat), bitsNat x l = x * 2 ^ l.length + bitsNat 0 l := by
          intro l
          induction l with
          | nil => intro x; simp [bitsNat]
          | cons d ds ih2 =>
            intro x
            simp only [bitsNat]
            rw [ih2 (2 * x + d.toNat), ih2 (2 * 0 + d.toNat), List.length_cons, Nat.pow_succ]; ring
        have hbs := bitsNat_lt bs 0 0 (by simp)
        have hcs := bitsNat_lt cs 0 0 (by simp)
        simp only [Nat.zero_add] at hbs hcs
        have hbc : b = c := by
          simp only [bitsNat] at he
          rw [grow bs, grow cs, hl'] at he
          rw [hl'] at hbs
          have hq : 2 * a + b.toNat = 2 * a + c.toNat := by
            rcases Nat.lt_trichotomy (2 * a + b.toNat) (2 * a + c.toNat) with h1 | h1 | h1
            · have h2 := Nat.mul_le_mul_right (2 ^ cs.length) (Nat.succ_le_of_lt h1)
              rw [Nat.succ_mul] at h2; omega
            · exact h1
            · have h2 := Nat.mul_le_mul_right (2 ^ cs.length) (Nat.succ_le_of_lt h1)
              rw [Nat.succ_mul] at h2; omega
          have hn : b.toNat = c.toNat := by omega
          revert hn; cases b <;> cases c <;> simp
        subst hbc
        rw [ih cs _ hl' he]
  refine inj _ _ 0 (by simp [h]) ?_
  have hlt := bitsNat_lt bits 0 0 (by simp)
  rw [wireBits, bitsNat_bitsDown, ofWire_toNat, Nat.mod_mod, ← h]
  simp only [Nat.zero_add, Nat.zero_mul] at hlt ⊢
  exact Nat.mod_eq_of_lt hlt

/-- A field at the head of a frame is taken off it. -/
theorem takeField_wireBits {n : Nat} (v : BitVec n) (rest : List Bool) :
    takeField n (wireBits ⟨n, v⟩ ++ rest) = some (v, rest) := by
  have hl : (wireBits ⟨n, v⟩).length = n := wireBits_length _
  have h := ofWire_wireBits ⟨n, v⟩
  simp only at h
  unfold takeField
  rw [if_neg (by simp [hl]), List.take_left' hl, List.drop_left' hl, h]

/-- A field taken off a frame was its head. -/
theorem takeField_some {n : Nat} {bits rest : List Bool} {v : BitVec n} (h : takeField n bits = some (v, rest)) :
    bits = wireBits ⟨n, v⟩ ++ rest := by
  unfold takeField at h
  split at h
  · simp at h
  · simp only [Option.some.injEq, Prod.mk.injEq] at h
    obtain ⟨rfl, rfl⟩ := h
    rw [wireBits_ofWire n _ (by rw [List.length_take]; omega), List.take_append_drop]

/-- The bits of a frame: the command word's, then the operands'. -/
theorem frameBits_eq (c : Config) (cmd : Command) :
    frameBits c cmd = wireBits ⟨16, commandWord c cmd⟩ ++ (operands cmd).flatMap (fun v => wireBits ⟨32, v⟩) := by
  simp [frameBits, frame, List.flatMap_map]

end Sys2Proof.Machine
end

