-- ==== Sys2Proof/Laws/PerInstr.lean ====
section
/-! SUPPORT. What holds of every instruction as it is written: the length of its encoding. -/

namespace Sys2Proof.Laws

open Sys2Proof.Machine

/-- The bits of a wire command's frame, set by the constructor alone (30_encoding R76, R80). A host operation is no
frame: it is one request (30_encoding R87). -/
def frameLength : Instr → Option Nat
  | .resetTarget => none
  | .sync => none
  | .enterDebug => none
  | .readMem32 _ => none
  | .writeMem32 _ _ => none
  | .readReg _ => none
  | .writeReg _ _ => none
  | .disconnect => none
  | .cmdReadMem32 _ => some 48
  | .cmdWriteMem32 _ _ => some 80
  | .cmdReadReg _ => some 16
  | .cmdWriteReg _ _ => some 48
  | .cmdEnterDebug => some 16
  | .cmdPoll => some 16

/-- The length of an encoding, for a frame; a request of 30_encoding R88 has a tag below 8. -/
def encodedLength : Encoded → Option Nat
  | .request _ => none
  | .frame bits => some bits.length

/-- In every configuration the encoding has the length of its constructor, and a request's tag is one of R88's. -/
def FrameLength.Statement (i : Instr) : Prop :=
  ∀ c : Config, encodedLength (encode c i) = frameLength i ∧
    ∀ r : Request, encode c i = .request r → r.op.toNat < 8

theorem frame_length (c : Config) (cmd : Command) :
    (frameBits c cmd).length = 16 + 32 * (operands cmd).length := by
  cases cmd <;> simp [frameBits, frame, operands]

theorem frameLength_of_request {i : Instr} (op : BitVec 4) (a d : Word) (h : ∀ c, encode c i = .request ⟨op, a, d⟩)
    (hl : frameLength i = none) (ho : op.toNat < 8) : FrameLength.Statement i := by
  intro c
  refine ⟨by rw [h, hl]; rfl, fun r hr => ?_⟩
  rw [h] at hr
  cases hr
  exact ho

theorem frameLength_of_frame {i : Instr} (cmd : Command) (h : ∀ c, encode c i = .frame (frameBits c cmd))
    (hl : frameLength i = some (16 + 32 * (operands cmd).length)) : FrameLength.Statement i := by
  intro c
  refine ⟨by rw [h, hl]; exact congrArg some (frame_length c cmd), fun r hr => ?_⟩
  rw [h] at hr
  cases hr

theorem FrameLength.resetTarget : FrameLength.Statement .resetTarget :=
  frameLength_of_request 0x0 0 0 (fun _ => rfl) rfl (by decide)

theorem FrameLength.sync : FrameLength.Statement .sync :=
  frameLength_of_request 0x1 0 0 (fun _ => rfl) rfl (by decide)

theorem FrameLength.enterDebug : FrameLength.Statement .enterDebug :=
  frameLength_of_request 0x2 0 0 (fun _ => rfl) rfl (by decide)

theorem FrameLength.readMem32 (a : Word) : FrameLength.Statement (.readMem32 a) :=
  frameLength_of_request 0x3 a 0 (fun _ => rfl) rfl (by decide)

theorem FrameLength.writeMem32 (a d : Word) : FrameLength.Statement (.writeMem32 a d) :=
  frameLength_of_request 0x4 a d (fun _ => rfl) rfl (by decide)

theorem FrameLength.readReg (i : Word) : FrameLength.Statement (.readReg i) :=
  frameLength_of_request 0x5 i 0 (fun _ => rfl) rfl (by decide)

theorem FrameLength.writeReg (i d : Word) : FrameLength.Statement (.writeReg i d) :=
  frameLength_of_request 0x6 i d (fun _ => rfl) rfl (by decide)

theorem FrameLength.disconnect : FrameLength.Statement .disconnect :=
  frameLength_of_request 0x7 0 0 (fun _ => rfl) rfl (by decide)

theorem FrameLength.cmdReadMem32 (a : Word) : FrameLength.Statement (.cmdReadMem32 a) :=
  frameLength_of_frame (.readMem32 a) (fun _ => rfl) rfl

theorem FrameLength.cmdWriteMem32 (a d : Word) : FrameLength.Statement (.cmdWriteMem32 a d) :=
  frameLength_of_frame (.writeMem32 a d) (fun _ => rfl) rfl

theorem FrameLength.cmdReadReg (i : Word) : FrameLength.Statement (.cmdReadReg i) :=
  frameLength_of_frame (.readReg i) (fun _ => rfl) rfl

theorem FrameLength.cmdWriteReg (i d : Word) : FrameLength.Statement (.cmdWriteReg i d) :=
  frameLength_of_frame (.writeReg i d) (fun _ => rfl) rfl

theorem FrameLength.cmdEnterDebug : FrameLength.Statement .cmdEnterDebug :=
  frameLength_of_frame .enterDebug (fun _ => rfl) rfl

theorem FrameLength.cmdPoll : FrameLength.Statement .cmdPoll :=
  frameLength_of_frame .poll (fun _ => rfl) rfl

end Sys2Proof.Laws
end

