-- ==== Sys2Proof/Laws/Serve.lean ====
section
/-! SUPPORT. What engine reset, the ports and the happenings can do, said once each. -/

namespace Sys2Proof.Machine

@[simp] theorem andThen_next (t : State) (f : State → Host.Outcome State Fault Refusal) :
    andThen (.next t) f = f t := rfl

@[simp] theorem andThen_fault (why : Fault) (f : State → Host.Outcome State Fault Refusal) :
    andThen (.fault why) f = .fault why := rfl

@[simp] theorem andThen_refused (why : Refusal) (f : State → Host.Outcome State Fault Refusal) :
    andThen (.refused why) f = .refused why := rfl

/-- A chain that ends in a next state went through one. -/
theorem andThen_eq_next {o : Host.Outcome State Fault Refusal} {f : State → Host.Outcome State Fault Refusal} {t : State}
    (h : andThen o f = .next t) : ∃ u, o = .next u ∧ f u = .next t := by
  cases o with
  | next u => exact ⟨u, rfl, h⟩
  | fault why => cases h
  | refused why => cases h

/-- Engine reset adds the nine events of 70_reset_and_hazards R200 to the trace, also seen from its start. -/
@[simp] theorem engineReset_trace (c : Config) (s : State) :
    (engineReset c s).trace = (resetEvents c).reverse ++ s.trace := by simp [engineReset]

theorem opTrace_engineReset (c : Config) (s : State) : opTrace s (engineReset c s) = resetEvents c :=
  opTrace_of_trace (engineReset_trace c s)

theorem opTrace_resetStart (c : Config) (s : State) : opTrace (resetStart c s) (engineReset c s) = resetEvents c :=
  opTrace_of_trace (engineReset_trace c s)

@[simp] theorem engineReset_others (c : Config) (s : State) : (engineReset c s).others = s.others := by
  simp [engineReset]

/-- While it runs: so many events emitted, `BUSY` 1, all else as at its start. -/
theorem midway_running {n : Nat} {s t : State} (h : n ≤ (opTrace s t).length) :
    midway n s t = { emits ((opTrace s t).take n) s with busy := true } := by simp [midway, h]

/-- When it is over. -/
theorem midway_over {n : Nat} {s t : State} (h : (opTrace s t).length < n) : midway n s t = t := by
  simp [midway, Nat.not_le.mpr h]

/-- Engine reset is accepted iff its configuration is well formed and takes no other engine's line. -/
theorem serveReset_next {c : Config} {s t : State} :
    serveReset c s = .next t ↔
      c.wf = true ∧ (∀ m ∈ s.others, m.shares c.pinmap = false) ∧ t = engineReset c s := by
  unfold serveReset
  by_cases hc : c.wf = true
  · by_cases ho : s.others.any (fun m => m.shares c.pinmap) = true
    · have : ¬ ∀ m ∈ s.others, m.shares c.pinmap = false := by
        simp only [List.any_eq_true] at ho
        obtain ⟨m, hm, hs⟩ := ho
        intro h; simp [h m hm] at hs
      simp [hc, ho, this]
    · have h2 : ∀ m ∈ s.others, m.shares c.pinmap = false := by simpa using ho
      rw [if_neg (by simp [hc]), if_neg ho]
      exact ⟨fun h => ⟨hc, h2, by cases h; rfl⟩, fun h => by rw [h.2.2]⟩
  · simp [hc]

/-- A second engine is accepted iff it takes no line of this engine or of one configured before. -/
theorem serveAttach_next {m : PinMap} {s t : State} :
    serveAttach m s = .next t ↔
      s.cfg.pinmap.shares m = false ∧ (∀ m' ∈ s.others, m'.shares m = false) ∧ t = addOther m s := by
  unfold serveAttach
  by_cases h : (s.cfg.pinmap :: s.others).any (fun m' => m'.shares m) = true
  · have : ¬ (s.cfg.pinmap.shares m = false ∧ ∀ m' ∈ s.others, m'.shares m = false) := by
      rintro ⟨h1, h2⟩
      simp only [List.any_cons, h1, Bool.false_or, List.any_eq_true] at h
      obtain ⟨m', hm, hs⟩ := h
      simp [h2 m' hm] at hs
    rw [if_pos h]
    constructor
    · intro he; cases he
    · rintro ⟨h1, h2, -⟩; exact absurd ⟨h1, h2⟩ this
  · have h2 : s.cfg.pinmap.shares m = false ∧ ∀ m' ∈ s.others, m'.shares m = false := by simpa using h
    rw [if_neg h]
    exact ⟨fun he => ⟨h2.1, h2.2, by cases he; rfl⟩, fun he => by rw [he.2.2]⟩

/-- Sharing lines is mutual. -/
theorem shares_comm (m m' : PinMap) : m.shares m' = m'.shares m := by
  rw [Bool.eq_iff_iff]
  simp only [PinMap.shares, List.any_eq_true, List.contains_iff_mem]
  exact ⟨fun ⟨l, h, g⟩ => ⟨l, g, h⟩, fun ⟨l, h, g⟩ => ⟨l, g, h⟩⟩

/-- A host read that gives a next state records one value and changes nothing else. -/
theorem serveRead_next {p : HostPort} {from_ s t : State} (h : serveRead p from_ s = .next t) :
    ∃ v, hostValue p from_ = .inl v ∧ t = { s with hostSees := v :: s.hostSees } := by
  unfold serveRead at h
  split at h
  · rename_i v hv; exact ⟨v, hv, by cases h; rfl⟩
  · cases h

/-- Recording values the host has read. -/
def sees (vs : List Word) (s : State) : State := { s with hostSees := vs ++ s.hostSees }

@[simp] theorem opTrace_sees (vs ws : List Word) (s t : State) : opTrace (sees vs s) (sees ws t) = opTrace s t := rfl

theorem emits_sees (es : List Event) (vs : List Word) (s : State) : emits es (sees vs s) = sees vs (emits es s) := by
  induction es generalizing s with
  | nil => rfl
  | cons e es ih => exact ih (emit e s)

/-- An output that always has a value, `running` while `s` leads to `t` and `ended` after it: what a host that polls it
sees; then come the happenings after the polls (10_state R36). -/
theorem along_reads (p : HostPort) (running ended : Word) (s t : State)
    (hr : ∀ n ≤ (opTrace s t).length, ∀ vs, hostValue p (midway n (sees vs s) (sees vs t)) = .inl running)
    (ho : ∀ vs, hostValue p (sees vs t) = .inl ended) (gaps : List Nat) (rest : List Happening) (k : Nat)
    (vs : List Word) :
    along (readsOf p gaps ++ rest) k (sees vs s) (sees vs t) =
      along rest (k + gaps.sum)
        (sees (((momentsFrom k gaps).map (seenAt (opTrace s t).length running ended)).reverse ++ vs) s)
        (sees (((momentsFrom k gaps).map (seenAt (opTrace s t).length running ended)).reverse ++ vs) t) := by
  induction gaps generalizing k vs with
  | nil => simp [readsOf, momentsFrom]
  | cons n gaps ih =>
    have hv : hostValue p (midway (k + n) (sees vs s) (sees vs t)) =
        .inl (seenAt (opTrace s t).length running ended (k + n)) := by
      unfold seenAt
      by_cases h : k + n ≤ (opTrace s t).length
      · rw [if_pos h]; exact hr _ h vs
      · rw [if_neg h, midway_over (by simpa using h)]; exact ho vs
    have e : ∀ u : State, serveRead p (midway (k + n) (sees vs s) (sees vs t)) (sees vs u) =
        .next (sees (seenAt (opTrace s t).length running ended (k + n) :: vs) u) := by
      intro u; unfold serveRead; rw [hv]; rfl
    have := ih (k + n) (seenAt (opTrace s t).length running ended (k + n) :: vs)
    simp only [readsOf, List.map_cons, List.cons_append, along, e, andThen_next, momentsFrom, List.reverse_cons,
      List.append_assoc, List.sum_cons, List.nil_append, ← Nat.add_assoc] at this ⊢
    exact this

end Sys2Proof.Machine
end

