-- ==== Sys2Proof/Tests/Slice0.lean ====
section
/-! SUPPORT. Tests: words written out bit by bit from the tables of 30_encoding, ill-formed terms, the test vectors of
the spec's section L2 (named T-… in the docstrings), and for every statement with hypotheses a state that meets them. -/

namespace Sys2Proof.Tests

open Sys2Proof Sys2Proof.Machine

/-! ### Well-formedness -/

theorem test_wf_read_address : (Instr.cmdReadMem32 0x20000002).wf Config.p0 = false := by decide
theorem test_wf_write_address : (Instr.cmdWriteMem32 0x20000001 0).wf Config.p0 = false := by decide
theorem test_wf_read_index : (Instr.cmdReadReg 16).wf Config.p0 = false := by decide
theorem test_wf_write_index : (Instr.cmdWriteReg 0xFFFFFFFF 0).wf Config.p0 = false := by decide
theorem test_wf_good : (Instr.cmdReadMem32 0xFFFFFFFC).wf Config.p0 = true ∧ (Instr.cmdWriteReg 15 0).wf Config.p0 = true := by
  decide

/-- 00_scope R9: each line of the rule, broken once. -/
theorem test_cfg_refused :
    ({ Config.p0 with regCount := 17 }).wf = false ∧ ({ Config.p0 with opcReadReg := 0x2181 }).wf = false ∧
    ({ Config.p0 with opcWriteReg := 0x2088 }).wf = false ∧ ({ Config.p0 with opcPoll := 0x1980 }).wf = false ∧
    ({ Config.p0 with opcEnterDebug := 0x218F }).wf = false ∧ ({ Config.p0 with opcWriteReg := 0x2180 }).wf = false ∧
    ({ Config.p0 with syncMaxCycles := 7 }).wf = false ∧ ({ Config.p0 with tClkHigh := 0 }).wf = false ∧
    ({ Config.p0 with tBkptHold := 0 }).wf = false ∧ ({ Config.p0 with pinmap := ⟨0, 1, 2, 3, 0⟩ }).wf = false := by
  decide

/-- The edges that 00_scope R8 and R9 allow. -/
theorem test_cfg_edges :
    ({ Config.p0 with syncMaxCycles := 8, retryMax := 0, tSetup := 0, tResetSettle := 0, regCount := 1 }).wf = true := by
  decide

/-! ### Decoding: words written out from 30_encoding R86 and R88 -/

theorem test_tags :
    decodeTableWord 4 0b0000 = some .resetTarget ∧ decodeTableWord 4 0b0001 = some .sync ∧
    decodeTableWord 4 0b0010 = some .enterDebug ∧ decodeTableWord 4 0b0011 = some (.readMem32 0) ∧
    decodeTableWord 4 0b0100 = some (.writeMem32 0 0) ∧ decodeTableWord 4 0b0101 = some (.readReg 0) ∧
    decodeTableWord 4 0b0110 = some (.writeReg 0 0) ∧ decodeTableWord 4 0b0111 = some .disconnect ∧
    decodeTableWord 4 0b1000 = none ∧ decodeTableWord 4 0b1111 = none := by
  decide +kernel

theorem test_words :
    decodeTableWord 16 0b0001100110000000 = some (.cmdReadMem32 0) ∧
    decodeTableWord 16 0b0001100010000000 = some (.cmdWriteMem32 0 0) ∧
    decodeTableWord 16 0b0010000110000000 = some (.cmdReadReg 0) ∧
    decodeTableWord 16 0b0010000110001000 = some (.cmdReadReg 8) ∧
    decodeTableWord 16 0b0010000010001111 = some (.cmdWriteReg 15 0) ∧
    decodeTableWord 16 0b0011111100000000 = some .cmdEnterDebug ∧
    decodeTableWord 16 0b0000000000000000 = some .cmdPoll ∧
    decodeTableWord 16 0b0010000110010000 = none := by
  decide +kernel

/-- The bits of `0x20000000` and `0xDEADBEEF`, from T-EN-2. -/
def bits20000000 : List Bool :=
  [false, false, true, false, false, false, false, false] ++ List.replicate 24 false

def bitsDEADBEEF : List Bool :=
  [true, true, false, true, true, true, true, false, true, false, true, false, true, true, false, true] ++
  [true, false, true, true, true, true, true, false, true, true, true, false, true, true, true, true]

/-- `0x1880`, from T-EN-1. -/
def bits1880 : List Bool :=
  [false, false, false, true, true, false, false, false, true, false, false, false, false, false, false, false]

/-- A write frame, its 80 bits written out, and one bit fewer. -/
theorem test_frame :
    decode Config.p0 (.frame (bits1880 ++ bits20000000 ++ bitsDEADBEEF)) =
      .instr (.cmdWriteMem32 0x20000000 0xDEADBEEF) [] ∧
    encode Config.p0 (.cmdWriteMem32 0x20000000 0xDEADBEEF) = .frame (bits1880 ++ bits20000000 ++ bitsDEADBEEF) ∧
    decode Config.p0 (.frame (bits1880 ++ bits20000000 ++ bitsDEADBEEF.drop 1)) = .refused .truncatedFrame := by
  decide +kernel

/-- T-EN-5. -/
theorem test_requests :
    decode Config.p0 (.request ⟨0x4, 0x20000000, 0xDEADBEEF⟩) = .instr (.writeMem32 0x20000000 0xDEADBEEF) [] ∧
    decode Config.p0 (.request ⟨0x5, 0x0000000F, 7⟩) = .instr (.readReg 15) [] ∧
    decode Config.p0 (.request ⟨0x9, 0, 0⟩) = .refused (.reservedOp 0x9) := by
  decide

/-- 30_encoding R92: the notation, its comments, its registers, what it refuses. -/
theorem test_assembler :
    assemble true "wr32 0x20000000, 0xDEADBEEF ; store\n\nrdreg a0" =
      .inputs [.request ⟨0x4, 0x20000000, 0xDEADBEEF⟩, .request ⟨0x5, 8, 0⟩] ∧
    assemble true "connect" = .inputs connectInputs ∧ assemble false "rdreg a0" = .refused .badNumber ∧
    assemble true "rd32 4294967296" = .refused .tooBig ∧ assemble true "fill 0" = .refused .unknownForm := by
  decide +kernel

/-! ### One step on small states -/

/-- After engine reset in profile P0, with `TS` and the target's answers set. -/
def testState (ts : TargetState) (dso : List Bool) : State := { State.reset with ts := ts, dso := dso }

/-- What a test looks at: response, `TS`, events, pulses, samples. -/
structure Look where
  kind   : Option (BitVec 4)
  cause  : Option (BitVec 4)
  data   : Option Word
  ts     : TargetState
  events : Nat
  pulses : Nat
  reads  : Nat
  deriving DecidableEq, Repr

def look (i : Instr) (s : State) : Option Look :=
  match exec i s with
  | .next t =>
    some ⟨t.resKind, t.resCause, t.resData, t.ts, (opTrace s t).length, pulseCount (opTrace s t),
      sampleCount (opTrace s t)⟩
  | .fault _ => none
  | .refused _ => none

/-- What the target takes in, and what the framer hands back. -/
def framed (i : Instr) (s : State) : Option (Option FramerRet × List Bool) :=
  match exec i s with
  | .next t => some (t.framerRet, targetSees s t)
  | .fault _ => none
  | .refused _ => none

def ones (n : Nat) : List Bool := List.replicate n true
def zeros (n : Nat) : List Bool := List.replicate n false

/-- T-BE-3, T-BE-4. -/
theorem test_shift_out :
    opTrace State.reset (shiftOut ⟨3, 0b101⟩ State.reset) = bitEvents true ++ bitEvents false ++ bitEvents true := by
  decide +kernel

theorem test_shift_in :
    (shiftIn 2 (testState .unknown [true, false])).1 = ⟨2, 0b10⟩ ∧
    opTrace (testState .unknown [true, false]) (shiftIn 2 (testState .unknown [true, false])).2 =
      [.wr .dsi false, .dly .setup, .wr .dsclk true, .dly .clkHigh, .wr .dsclk false, .rd true, .dly .clkLow,
       .wr .dsclk true, .dly .clkHigh, .wr .dsclk false, .rd false, .dly .clkLow] := by
  decide +kernel

/-- T-SR-2. -/
theorem test_reset_target :
    look .resetTarget (testState .debugMode []) = some ⟨some 0, some 0, none, .reset, 4, 0, 0⟩ := by decide +kernel

/-- T-SR-5. -/
theorem test_sync_garbage :
    look .sync (testState .reset ([true, true, true, false, true, false, true, true, false, true, false])) =
      some ⟨some 0, some 0, none, .synchronized, 108, 19, 11⟩ := by decide +kernel

/-- T-SR-6. -/
theorem test_sync_fails :
    look .sync (testState .reset (zeros 16)) = some ⟨some 1, some 0, none, .reset, 133, 24, 16⟩ := by decide +kernel

/-- T-SR-12. -/
theorem test_enter_refused :
    look .enterDebug (testState .synchronized (false :: wireBits ⟨16, 0x1234⟩)) =
      some ⟨some 2, some 8, some 0x00001234, .synchronized, 183, 33, 17⟩ := by decide +kernel

/-- T-SR-13. -/
theorem test_enter_one_poll :
    look .enterDebug (testState .synchronized (true :: zeros 16 ++ (false :: ones 16))) =
      some ⟨some 0, some 0, none, .debugMode, 366, 66, 34⟩ := by decide +kernel

/-- T-AC-1. -/
theorem test_read_mem :
    look (.readMem32 0x20000000) (testState .debugMode (false :: bitsDEADBEEF)) =
      some ⟨some 0, some 0, some 0xDEADBEEF, .debugMode, 455, 81, 33⟩ := by decide +kernel

/-- T-AC-6. -/
theorem test_read_mem_timeout :
    look (.readMem32 0x20000000) (testState .debugMode (ones 132)) =
      some ⟨some 7, some 3, none, .unknown, 1244, 228, 132⟩ := by decide +kernel

/-- T-AC-9. -/
theorem test_write_mem :
    look (.writeMem32 0x20000000 0xDEADBEEF) (testState .debugMode []) =
      some ⟨some 0, some 0, none, .debugMode, 480, 80, 0⟩ := by decide +kernel

/-- T-AC-3's order of checks, for the write. -/
theorem test_write_mem_misaligned :
    look (.writeMem32 0x20000002 0) (testState .unknown []) = some ⟨some 5, some 0, none, .unknown, 0, 0, 0⟩ := by
  decide +kernel

/-- T-AC-10. -/
theorem test_read_reg :
    look (.readReg 15) (testState .debugMode (false :: wireBits ⟨32, 0x41⟩)) =
      some ⟨some 0, some 0, some 0x41, .debugMode, 263, 49, 33⟩ := by decide +kernel

/-- T-AC-12. -/
theorem test_read_reg_index :
    look (.readReg 0xFFFFFFFF) (testState .unknown []) = some ⟨some 6, some 0, none, .unknown, 0, 0, 0⟩ := by
  decide +kernel

/-- T-AC-14. -/
theorem test_write_reg :
    look (.writeReg 0 0x12345678) (testState .debugMode []) =
      some ⟨some 0, some 0, none, .debugMode, 288, 48, 0⟩ := by decide +kernel

/-- T-AC-16. -/
theorem test_write_reg_state :
    look (.writeReg 3 1) (testState .reset []) = some ⟨some 7, some 4, none, .reset, 0, 0, 0⟩ := by decide +kernel

/-- T-SR-16. -/
theorem test_disconnect :
    look .disconnect (testState .debugMode []) = some ⟨some 0, some 0, none, .unknown, 0, 0, 0⟩ := by decide +kernel

/-- T-CF-3: no poll when `RETRY_MAX` is 0. -/
theorem test_cmd_read_mem_no_poll :
    framed (.cmdReadMem32 0x20000000)
        { testState .unknown (ones 33) with cfg := { Config.p0 with retryMax := 0 } } =
      some (some .timeout,
        [false, false, false, true, true, false, false, true, true, false, false, false, false, false, false, false] ++
          bits20000000 ++ zeros 33) := by decide +kernel

/-- T-AC-9's frame, from the framer alone. -/
theorem test_cmd_write_mem :
    framed (.cmdWriteMem32 0x20000000 0xDEADBEEF) (testState .unknown []) =
      some (some .nothing, bits1880 ++ bits20000000 ++ bitsDEADBEEF) := by decide +kernel

/-- T-CF-1: one poll, `POLLS` = 1. -/
theorem test_cmd_read_reg_one_poll :
    (match exec (.cmdReadReg 0) (testState .unknown (true :: zeros 32 ++ (false :: wireBits ⟨32, 0x41⟩))) with
      | .next t => some (t.framerRet, t.polls, t.pend)
      | _ => none) = some (some (.data ⟨32, 0x41⟩), 1, none) := by decide +kernel

/-- T-CF-5. -/
theorem test_cmd_write_reg :
    look (.cmdWriteReg 1 0) (testState .unknown []) = some ⟨none, none, none, .unknown, 288, 48, 0⟩ := by decide +kernel

/-- 42_command_framer R151: 17 bits per response. -/
theorem test_cmd_enter_debug :
    look .cmdEnterDebug (testState .unknown (false :: ones 16)) =
      some ⟨none, none, none, .unknown, 183, 33, 17⟩ := by decide +kernel

/-- T-CF-4: the poll takes the width of the pending command. -/
theorem test_cmd_poll_width :
    framed .cmdPoll { testState .unknown (true :: ones 16) with pend := some .w16 } =
      some (some (.response ⟨17, 0x1FFFF⟩), zeros 16 ++ zeros 17) := by decide +kernel

/-! ### The host's side -/

/-- T-RS-1. -/
theorem test_engine_reset :
    resetEvents Config.p0 =
      [.wr .dsclk false, .wr .dsi false, .wr .bkpt true, .wr .reset true, .dir .dsclk .output, .dir .dsi .output,
       .dir .bkpt .output, .dir .reset .output, .dir .dso .input] ∧
    State.reset.trace = (resetEvents Config.p0).reverse := by decide

/-- T-RS-2: cut during the second poll of T-AC-6 (event 700 of 1244). -/
theorem test_cut :
    (match step { testState .debugMode (ones 132) with
        inbox := [.requestDuring ⟨0x3, 0x20000000, 0⟩ [⟨700, .engineReset Config.p0⟩]] } with
      | .next t => some (t.ts, t.resKind, t.busy, t.trace.length, t.trace.take 9)
      | _ => none) =
      some (.unknown, none, false, 9 + 700 + 9, (resetEvents Config.p0).reverse) := by decide +kernel

/-- 10_state R28, R36: RESET_TARGET has four events; the host polls `BUSY` at none, two and four of them and after the
end, and then reads `TS`. Newest first. -/
theorem test_polls :
    (match step { testState .debugMode [] with
        inbox := [.requestDuring ⟨0x0, 0, 0⟩ (readsOf .busy [0, 2, 2, 1] ++ [⟨0, .hostRead .ts⟩])] } with
      | .next t => some (t.hostSees, t.ts)
      | _ => none) = some ([0b01, 0, 1, 1, 1], .reset) := by decide +kernel

/-- 10_state R28, 70_reset_and_hazards R200: engine reset is busy, keeps `TS` until its nine events are out, and can be
asserted again during them. -/
theorem test_reset_runs :
    (match step { testState .debugMode [] with
        inbox := [.resetDuring Config.p0 [⟨3, .hostRead .busy⟩, ⟨0, .hostRead .ts⟩, ⟨2, .engineReset Config.p0⟩,
          ⟨9, .hostRead .busy⟩, ⟨1, .hostRead .busy⟩, ⟨0, .hostRead .ts⟩]] } with
      | .next t => some (t.hostSees, t.trace.length)
      | _ => none) = some ([0, 0, 1, 0b11, 1], 9 + 5 + 9) := by decide +kernel

/-- 60_exceptions R193: engine reset may not take a line of an engine attached before, also while an operation runs. -/
theorem test_attached_lines :
    (match step { testState .unknown [] with
        inbox := [.requestDuring ⟨0x0, 0, 0⟩ [⟨1, .attachEngine ⟨9, 8, 7, 6, 5⟩⟩,
          ⟨1, .engineReset { Config.p0 with pinmap := ⟨10, 11, 12, 13, 5⟩ }⟩]] } with
      | .refused why => some why
      | _ => none) = some .sharedLines := by decide +kernel

/-- 40_bit_engine R110: no command traffic in Unknown or Reset. -/
theorem test_framer_not_called :
    (match step { testState .reset [] with inbox := [.frame (zeros 16)] } with
      | .refused why => some why
      | _ => none) = some (.framerNotCalled .reset) := by decide +kernel

/-- T-EX-2: an OK WRITE_MEM32 leaves no data of an earlier read. -/
theorem test_no_stale_data :
    (match exec (.writeMem32 0 1) { testState .debugMode [] with resData := some 0xDEADBEEF } with
      | .next t => (hostValue .data t).getRight?
      | _ => none) = some (.noValue .data) := by decide +kernel

/-- The next state of an outcome, if it is one. -/
def nextOf (o : Host.Outcome State Fault Refusal) : Option State :=
  match o with
  | .next t => some t
  | .fault _ => none
  | .refused _ => none

/-- A word placed by `withFetchWord` is what the very next step runs: a wire command in the `TS` of its caller. -/
theorem test_fetch_word :
    nextOf (step (State.reset.withFetchWord 16 0x2081)) =
      nextOf (exec (.cmdWriteReg 1 0) { State.reset with ts := .debugMode }) ∧
    nextOf (step (State.reset.withFetchWord 4 0x3)) = nextOf (exec (.readMem32 0) State.reset) := by decide +kernel

theorem test_fetch_word_answered :
    step (State.reset.withFetchWord 16 0x3F00) = exec .cmdEnterDebug { State.reset with ts := .synchronized } ∧
    step (State.reset.withFetchWord 16 0x0000) = exec .cmdPoll { State.reset with ts := .debugMode } := ⟨rfl, rfl⟩

/-! ### For each statement with hypotheses, a state and operands that meet them all -/

/-- A request in the inbox, then nothing. -/
def withInput (i : Input) : State := { State.reset with inbox := [i] }

theorem witness_DecodeAnswersEncode :
    Config.p0.wf = true ∧ (Instr.cmdWriteReg 15 0xDEADBEEF).wf Config.p0 = true ∧
    (Instr.cmdReadMem32 0xFFFFFFFC).wf Config.p0 = true := by decide

theorem witness_DecodedFrameIsItsEncoding :
    Config.p0.wf = true ∧
    decodeFrame Config.p0 (bits1880 ++ bits20000000 ++ bitsDEADBEEF ++ [true]) =
      .instr (.cmdWriteMem32 0x20000000 0xDEADBEEF) [true] := by decide +kernel

theorem witness_ReservedTagsRefused :
    (withInput (.request ⟨0x8, 0, 0⟩)).busy = false ∧ 8 ≤ (0x8 : BitVec 4).toNat ∧ 8 ≤ (0xF : BitVec 4).toNat ∧
    (withInput (.request ⟨0x8, 0, 0⟩)).inbox = .request ⟨0x8, 0, 0⟩ :: [] := by decide

theorem witness_UnusedFieldsHaveNoEffect :
    ((0x7 : BitVec 4) = 0x0 ∨ (0x7 : BitVec 4) = 0x1 ∨ (0x7 : BitVec 4) = 0x2 ∨ (0x7 : BitVec 4) = 0x7) ∧
    ((0x5 : BitVec 4) = 0x3 ∨ (0x5 : BitVec 4) = 0x5) := by decide

theorem witness_ShiftOutDeliversEveryBit :
    1 ≤ (⟨1, 1⟩ : BitSeq).width ∧ 1 ≤ (⟨32, 0xDEADBEEF⟩ : BitSeq).width ∧ State.reset.lvDsclk = false := by decide

theorem witness_ShiftInAssemblesMsbFirst :
    (1 ≤ 1 ∧ 1 ≤ 33) ∧ (1 ≤ 33 ∧ 33 ≤ 33) ∧ State.reset.lvDsclk = false := by decide

theorem witness_LoopbackRoundTrip :
    ((⟨16, 0x2180⟩ : BitSeq).width = 16 ∨ (⟨16, 0x2180⟩ : BitSeq).width = 32) ∧
    ((⟨32, 0x80000001⟩ : BitSeq).width = 16 ∨ (⟨32, 0x80000001⟩ : BitSeq).width = 32) ∧
    State.reset.lvDsclk = false := by decide

theorem witness_ReadCommandsExchangeFrames :
    (∃ a, Instr.cmdReadMem32 0 = .cmdReadMem32 a ∧ Command.readMem32 0 = .readMem32 a ∧ RespWidth.w32 = .w32) ∧
    (∃ r, Instr.cmdReadReg 15 = .cmdReadReg r ∧ Command.readReg 15 = .readReg r ∧ RespWidth.w32 = .w32) ∧
    (Instr.cmdEnterDebug = .cmdEnterDebug ∧ Command.enterDebug = .enterDebug ∧ RespWidth.w16 = .w16) :=
  ⟨⟨0, rfl, rfl, rfl⟩, ⟨15, rfl, rfl, rfl⟩, rfl, rfl, rfl⟩

theorem witness_PollTakesOneResponse :
    ({ State.reset with pend := some RespWidth.w16 }).pend = some .w16 ∧
    ({ State.reset with pend := some RespWidth.w32 }).pend = some .w32 := by decide

theorem witness_PollWithNothingPendingStillRuns : State.reset.pend = none := rfl

theorem witness_FramerWritesNoStatus :
    (∃ t, exec (Command.readMem32 4).toInstr State.reset = .next t) ∧
    (∃ t, exec Command.poll.toInstr State.reset = .next t) := ⟨⟨_, rfl⟩, _, rfl⟩

theorem witness_AnswerIsTheFirstReadyFrame :
    (∃ t, exec (.cmdReadMem32 4) (testState .unknown (ones 132)) = .next t ∧ t.framerRet = some .timeout) ∧
    (∃ t, exec (.cmdReadMem32 4) (testState .unknown (ones 33 ++ zeros 33)) = .next t ∧
      t.framerRet = some (.data ⟨32, 0⟩)) := by
  refine ⟨⟨_, rfl, ?_⟩, ⟨_, rfl, ?_⟩⟩ <;> decide +kernel

theorem witness_PollCountBoundsTheTraffic :
    (∃ a, Instr.cmdReadMem32 4 = .cmdReadMem32 a ∧ 48 = 48 ∧ 32 = 32) ∧
    (∃ r, Instr.cmdReadReg 15 = .cmdReadReg r ∧ 16 = 16 ∧ 32 = 32) ∧
    (∃ t, exec (.cmdReadMem32 4) (testState .unknown (ones 132)) = .next t ∧ t.framerRet = some .timeout) := by
  refine ⟨⟨4, rfl, rfl, rfl⟩, ⟨15, rfl, rfl, rfl⟩, _, rfl, ?_⟩
  decide +kernel

theorem witness_SyncStopsAtTheEarliestMatch :
    (testState .reset []).ts = .reset ∧ (testState .synchronized []).ts ≠ .reset ∧
    (testState .reset []).cfg.wf = true ∧ (testState .synchronized []).cfg.wf = true := by decide

/-- The match at the first cycle that may match, 8, and at the last, 16. -/
theorem witness_SyncSucceedsOnTheResponse :
    (testState .reset (wireBits ⟨8, 0x5A⟩)).ts = .reset ∧ Config.p0.wf = true ∧ 8 ≤ Config.p0.syncMaxCycles ∧
    8 ≤ (wireBits ⟨8, 0x5A⟩).length ∧ syncMatchAt Config.p0 (wireBits ⟨8, 0x5A⟩) 8 ∧
    16 ≤ Config.p0.syncMaxCycles ∧ 16 ≤ (zeros 8 ++ wireBits ⟨8, 0x5A⟩).length ∧
    syncMatchAt Config.p0 (zeros 8 ++ wireBits ⟨8, 0x5A⟩) 16 := by
  refine ⟨rfl, by decide, by decide, by decide, ⟨by decide, by decide⟩, by decide, by decide, ⟨by decide, by decide⟩⟩

theorem witness_EnterDebugResult :
    (testState .synchronized []).ts = .synchronized ∧ (testState .debugMode []).ts ≠ .synchronized := by decide

/-- No not-ready frame, and as many as `RETRY_MAX` allows. -/
theorem witness_EnterDebugSucceedsOnTheAck :
    (testState .synchronized (false :: wireBits ⟨16, 0xFFFF⟩ ++ [])).ts = .synchronized ∧
    answersBusyThen .w16 [] (false :: wireBits ⟨16, Config.p0.enterAck⟩ ++ [])
      (testState .synchronized (false :: wireBits ⟨16, 0xFFFF⟩ ++ [])) ∧
    [zeros 16, ones 16, zeros 16].length ≤ Config.p0.retryMax ∧
    answersBusyThen .w16 [zeros 16, ones 16, zeros 16] (false :: wireBits ⟨16, Config.p0.enterAck⟩ ++ [])
      (testState .synchronized
        (notReadyFrames [zeros 16, ones 16, zeros 16] ++ (false :: wireBits ⟨16, 0xFFFF⟩ ++ []))) := by
  refine ⟨rfl, ⟨by decide, by decide⟩, by decide, ⟨by decide, by decide⟩⟩

/-- Each clause of READ_MEM32 and WRITE_MEM32: the last misaligned address, an aligned one outside and in DebugMode. -/
theorem witness_ReadMem32Result :
    (0xFFFFFFFF : Word).toNat % 4 ≠ 0 ∧ (0xFFFFFFFC : Word).toNat % 4 = 0 ∧
    (testState .synchronized []).ts ≠ .debugMode ∧ (testState .debugMode []).ts = .debugMode := by decide

theorem witness_WriteMem32Result :
    (0x00000001 : Word).toNat % 4 ≠ 0 ∧ (0x00000000 : Word).toNat % 4 = 0 ∧
    (testState .unknown []).ts ≠ .debugMode ∧ (testState .debugMode []).ts = .debugMode := by decide

/-- Each clause of READ_REG and WRITE_REG: the last index, one past it, outside and in DebugMode. -/
theorem witness_ReadRegResult :
    Config.p0.regCount ≤ (16 : Word).toNat ∧ (15 : Word).toNat < Config.p0.regCount ∧
    (testState .synchronized []).ts ≠ .debugMode ∧ (testState .debugMode []).ts = .debugMode := by decide

theorem witness_WriteRegResult :
    Config.p0.regCount ≤ (16 : Word).toNat ∧ (15 : Word).toNat < Config.p0.regCount ∧
    (testState .reset []).ts ≠ .debugMode ∧ (testState .debugMode []).ts = .debugMode := by decide

/-- The answer at once, and after three not-ready frames. -/
theorem witness_ReadsReturnTheAnsweredWord :
    (∃ a : Word, Instr.readMem32 4 = .readMem32 a ∧ a.toNat % 4 = 0) ∧
    (∃ r : Word, Instr.readReg 15 = .readReg r ∧ r.toNat < Config.p0.regCount) ∧
    (testState .debugMode []).ts = .debugMode ∧
    answersBusyThen .w32 [] (false :: wireBits ⟨32, 0x41⟩ ++ [])
      (testState .debugMode (false :: wireBits ⟨32, 0x41⟩ ++ [])) ∧
    [zeros 32, ones 32, zeros 32].length ≤ Config.p0.retryMax ∧
    answersBusyThen .w32 [zeros 32, ones 32, zeros 32] (false :: wireBits ⟨32, 0x41⟩ ++ [])
      (testState .debugMode
        (notReadyFrames [zeros 32, ones 32, zeros 32] ++ (false :: wireBits ⟨32, 0x41⟩ ++ []))) := by
  refine ⟨⟨4, rfl, by decide⟩, ⟨15, rfl, by decide⟩, rfl, ⟨by decide, by decide⟩, by decide, ⟨by decide, by decide⟩⟩

theorem witness_TimeoutDropsToUnknown :
    (∃ a : Word, Instr.readMem32 4 = .readMem32 a ∧ a.toNat % 4 = 0) ∧
    (∃ r : Word, Instr.readReg 15 = .readReg r ∧ r.toNat < Config.p0.regCount) ∧
    (testState .debugMode []).ts = .debugMode ∧
    (List.replicate 4 (zeros 32)).length = 1 + Config.p0.retryMax ∧
    answersBusyThen .w32 (List.replicate 4 (zeros 32)) [true]
      (testState .debugMode (notReadyFrames (List.replicate 4 (zeros 32)) ++ [true])) := by
  refine ⟨⟨4, rfl, by decide⟩, ⟨15, rfl, by decide⟩, rfl, by decide, ⟨by decide, by decide⟩⟩

theorem witness_BadOperandsNeverReachTheWire :
    (0xFFFFFFFF : Word).toNat % 4 ≠ 0 ∧ Config.p0.regCount ≤ (16 : Word).toNat := by decide

theorem witness_TargetDecodesTheAccess :
    (testState .debugMode []).cfg.wf = true ∧ (testState .debugMode []).lvDsclk = false ∧
    (testState .debugMode []).ts = .debugMode ∧ (0xFFFFFFFC : Word).toNat % 4 = 0 ∧
    (15 : Word).toNat < (testState .debugMode []).cfg.regCount := by decide

theorem witness_WriteThenReadReturnsTheWord :
    (testState .debugMode []).cfg.wf = true ∧ (testState .debugMode []).lvDsclk = false ∧
    (testState .debugMode []).ts = .debugMode ∧ (0x20000000 : Word).toNat % 4 = 0 ∧
    [ones 32, zeros 32, zeros 32].length ≤ Config.p0.retryMax ∧
    ∀ f ∈ [ones 32, zeros 32, zeros 32], f.length = 32 := by decide

theorem witness_TsMovesOnlyByTheTable :
    (∃ t, exec (.readMem32 4) (testState .debugMode (ones 132)) = .next t) ∧
    (∃ p, (withInput (.hostRead .busy)).inbox = .hostRead p :: []) ∧
    (∃ t, step (withInput (.hostRead .busy)) = .next t) ∧
    (∃ m, (withInput (.attachEngine ⟨9, 8, 7, 6, 5⟩)).inbox = .attachEngine m :: []) ∧
    ∃ t, step (withInput (.attachEngine ⟨9, 8, 7, 6, 5⟩)) = .next t :=
  ⟨⟨_, rfl⟩, ⟨_, rfl⟩, ⟨_, rfl⟩, ⟨_, rfl⟩, _, rfl⟩

theorem witness_ControlLinesHaveOneWriter :
    ∃ t, exec (.readMem32 4) (testState .debugMode (ones 132)) = .next t ∧ Instr.readMem32 4 ≠ .sync ∧
      Instr.readMem32 4 ≠ .resetTarget := ⟨_, rfl, by decide, by decide⟩

theorem witness_NoClockBeforeTheHandshake :
    isHostOp .enterDebug = true ∧ (testState .unknown []).ts = .unknown ∧ (testState .reset []).ts = .reset ∧
    Instr.enterDebug ≠ .sync ∧ (∃ t, exec .enterDebug (testState .unknown []) = .next t) ∧
    (∃ t, exec .enterDebug (testState .reset []) = .next t) ∧
    (∀ h ∈ happenings (.requestDuring ⟨0x0, 0, 0⟩ [⟨1, .hostRead .ts⟩]), ∀ r, h.what ≠ .request r) ∧
    (∃ t, (withInput (.requestDuring ⟨0x0, 0, 0⟩ [⟨1, .hostRead .ts⟩])).ts = .unknown ∧
      step (withInput (.requestDuring ⟨0x0, 0, 0⟩ [⟨1, .hostRead .ts⟩])) = .next t) ∧
    ∃ t, ({ withInput (.request ⟨0x2, 0, 0⟩) with ts := .reset }).ts = .reset ∧
      step { withInput (.request ⟨0x2, 0, 0⟩) with ts := .reset } = .next t :=
  ⟨rfl, rfl, rfl, by decide, ⟨_, rfl⟩, ⟨_, rfl⟩,
    fun h hh r hr => by rw [List.mem_singleton.1 hh] at hr; exact absurd hr (by simp),
    ⟨_, rfl, rfl⟩, _, rfl, rfl⟩

theorem witness_EveryHostOperationEnds : isHostOp .sync = true ∧ isHostOp .disconnect = true := by decide

theorem witness_DataOnlyAfterReadsAndRefusals :
    isHostOp (.readReg 15) = true ∧
    ∃ t, exec (.readReg 15) (testState .debugMode (zeros 33)) = .next t ∧ t.resData.isSome = true :=
  ⟨rfl, _, rfl, by decide +kernel⟩

theorem witness_PinsFollowTheTrace : ∃ t, exec .sync (testState .reset (zeros 16)) = .next t := ⟨_, rfl⟩

theorem witness_OperationsDoNotOverlap :
    ∃ t u, exec (.writeMem32 4 1) (testState .debugMode (zeros 33)) = .next t ∧ exec (.readMem32 4) t = .next u :=
  ⟨_, _, rfl, rfl⟩

theorem witness_TransientsAreUnobservable :
    (Instr.readMem32 4 = .cmdPoll → State.reset.pend = some .w16) ∧
    (Instr.cmdPoll = .cmdPoll → State.reset.pend = ({ State.reset with sh := 5, cyc := 7, win := 9 }).pend) ∧
    scrub State.reset = scrub { State.reset with sh := 5, cyc := 7, win := 9 } ∧
    scrub State.reset = scrub { State.reset with polls := 2, pend := some .w16 } :=
  ⟨by decide, fun _ => rfl, rfl, rfl⟩

/-- Each clause of the counts: its operation from the state it asks for. -/
theorem witness_CountsOfEveryOperation :
    isHostOp .sync = true ∧ (testState .reset []).ts = .reset ∧ (testState .synchronized []).ts = .synchronized ∧
    (testState .debugMode []).ts = .debugMode ∧ (0xFFFFFFFC : Word).toNat % 4 = 0 ∧
    (15 : Word).toNat < (testState .debugMode []).cfg.regCount ∧
    (∃ t, exec .sync (testState .reset (zeros 16)) = .next t ∧ t.resKind ≠ some 0) ∧
    (∃ t, exec (.readReg 16) (testState .debugMode []) = .next t ∧ t.resKind = some 6) ∧
    ∃ t, exec (.readMem32 4) (testState .debugMode (ones 132)) = .next t ∧ t.resCause = some 3 := by
  refine ⟨rfl, rfl, rfl, rfl, by decide, by decide, ⟨_, rfl, ?_⟩, ⟨_, rfl, ?_⟩, ⟨_, rfl, ?_⟩⟩ <;> decide +kernel

theorem witness_EngineResetLeavesRuleR37 :
    Config.p0.wf = true ∧ (∀ m ∈ [(⟨9, 8, 7, 6, 5⟩ : PinMap)], m.shares Config.p0.pinmap = false) ∧
    (withInput (.engineReset Config.p0)).inbox = .engineReset Config.p0 :: [] := by decide

/-- RESET_TARGET has four events: cut before the first, and, after two reads, after the last. -/
theorem witness_EngineResetCutsAnOperation :
    State.reset.busy = false ∧ Config.p0.wf = true ∧ (∀ m ∈ State.reset.others, m.shares Config.p0.pinmap = false) ∧
    (0 : Word).toNat % 4 = 0 ∧ decodeRequest ⟨0x0, 0, 0⟩ = .instr .resetTarget [] ∧
    (withInput (.requestDuring ⟨0x0, 0, 0⟩ (readsOf .busy [] ++ [⟨0, .engineReset Config.p0⟩]))).inbox =
      .requestDuring ⟨0x0, 0, 0⟩ [⟨0, .engineReset Config.p0⟩] :: [] ∧
    (withInput (.requestDuring ⟨0x0, 0, 0⟩ (readsOf .busy [1, 2] ++ [⟨1, .engineReset Config.p0⟩]))).inbox =
      .requestDuring ⟨0x0, 0, 0⟩ [⟨1, .hostRead .busy⟩, ⟨2, .hostRead .busy⟩, ⟨1, .engineReset Config.p0⟩] :: [] ∧
    ∃ u, exec .resetTarget { withInput (.request ⟨0x0, 0, 0⟩) with inbox := [] } = .next u :=
  ⟨rfl, by decide, by decide, by decide, rfl, rfl, rfl, _, rfl⟩

theorem witness_EngineResetCutsEngineReset :
    Config.p0.wf = true ∧ ({ Config.p0 with resetActive := true }).wf = true ∧
    (∀ m ∈ State.reset.others, m.shares Config.p0.pinmap = false) ∧
    (withInput (.resetDuring Config.p0 [⟨9, .engineReset { Config.p0 with resetActive := true }⟩])).inbox =
      .resetDuring Config.p0 [⟨9, .engineReset { Config.p0 with resetActive := true }⟩] :: [] := by decide

/-- RESET_TARGET has four events: it runs at 4, is over at 5. -/
theorem witness_BusyIsSeenDuringAnOperation :
    State.reset.busy = false ∧ decodeRequest ⟨0x0, 0, 0⟩ = .instr .resetTarget [] ∧
    (∃ u, exec .resetTarget { withInput (.request ⟨0x0, 0, 0⟩) with inbox := [] } = .next u ∧
      seen (opTrace State.reset u).length 1 0 [4, 1] [] = [0, 1]) ∧
    (withInput (.requestDuring ⟨0x0, 0, 0⟩ (readsOf .busy [4, 1]))).inbox =
      .requestDuring ⟨0x0, 0, 0⟩ (readsOf .busy [4, 1]) :: [] ∧
    (withInput (.requestDuring ⟨0x0, 0, 0⟩ (readsOf .ts [4, 1]))).inbox =
      .requestDuring ⟨0x0, 0, 0⟩ (readsOf .ts [4, 1]) :: [] :=
  ⟨rfl, rfl, ⟨_, rfl, by decide +kernel⟩, rfl, rfl⟩

theorem witness_BusyIsSeenDuringEngineReset :
    Config.p0.wf = true ∧ (∀ m ∈ State.reset.others, m.shares Config.p0.pinmap = false) ∧
    (withInput (.resetDuring Config.p0 (readsOf .busy [9, 1]))).inbox =
      .resetDuring Config.p0 (readsOf .busy [9, 1]) :: [] ∧
    (withInput (.resetDuring Config.p0 (readsOf .ts [9, 1]))).inbox =
      .resetDuring Config.p0 (readsOf .ts [9, 1]) :: [] ∧ seen 9 1 0 [9, 1] [] = [0, 1] := by decide

theorem witness_RequestWhileBusyHasNoMove :
    ({ withInput (.request ⟨0x7, 0, 0⟩) with busy := true }).busy = true ∧
    ({ withInput (.request ⟨0x7, 0, 0⟩) with busy := true }).inbox = .request ⟨0x7, 0, 0⟩ :: [] ∧
    State.reset.busy = false ∧ decodeRequest ⟨0x0, 0, 0⟩ = .instr .resetTarget [] ∧
    (∃ u, exec .resetTarget { withInput (.request ⟨0x0, 0, 0⟩) with inbox := [] } = .next u ∧
      4 ≤ (opTrace State.reset u).length) ∧
    (withInput (.requestDuring ⟨0x0, 0, 0⟩ [⟨4, .request ⟨0x8, 0, 0⟩⟩])).inbox =
      .requestDuring ⟨0x0, 0, 0⟩ (⟨4, .request ⟨0x8, 0, 0⟩⟩ :: []) :: [] ∧
    Config.p0.wf = true ∧ (∀ m ∈ State.reset.others, m.shares Config.p0.pinmap = false) ∧ 9 ≤ 9 ∧
    (withInput (.resetDuring Config.p0 [⟨9, .request ⟨0x7, 0, 0⟩⟩])).inbox =
      .resetDuring Config.p0 (⟨9, .request ⟨0x7, 0, 0⟩⟩ :: []) :: [] :=
  ⟨rfl, rfl, rfl, rfl, ⟨_, rfl, by decide +kernel⟩, rfl, by decide, by decide, le_refl 9, rfl⟩

/-- Each output, without a value and with one; the last kind that is not reserved and the first that is. -/
theorem witness_ReadOfNoValueFaults :
    (withInput (.hostRead .data)).inbox = .hostRead .data :: [] ∧ (withInput (.hostRead .data)).resData = none ∧
    ({ withInput (.hostRead .data) with resData := some 0x41 }).resData = some 0x41 ∧
    (withInput (.hostRead .kind)).inbox = .hostRead .kind :: [] ∧ (withInput (.hostRead .kind)).resKind = none ∧
    ({ withInput (.hostRead .kind) with resKind := some 7 }).resKind = some 7 ∧ (7 : BitVec 4).toNat < 8 ∧
    ({ withInput (.hostRead .kind) with resKind := some 8 }).resKind = some 8 ∧ 8 ≤ (8 : BitVec 4).toNat ∧
    (withInput (.hostRead .cause)).inbox = .hostRead .cause :: [] ∧ (withInput (.hostRead .cause)).resCause = none ∧
    ({ withInput (.hostRead .cause) with resCause := some 8 }).resCause = some 8 ∧
    (withInput (.hostRead .ts)).inbox = .hostRead .ts :: [] ∧ (testState .unknown []).ts = .unknown ∧
    (testState .reset []).ts = .reset ∧ (testState .synchronized []).ts = .synchronized ∧
    (testState .debugMode []).ts = .debugMode ∧
    (withInput (.hostRead .busy)).inbox = .hostRead .busy :: [] := by decide

theorem witness_BadConfigurationsRefused :
    ({ Config.p0 with regCount := 17 }).wf = false ∧
    (withInput (.attachEngine ⟨9, 8, 7, 6, 4⟩)).inbox = .attachEngine ⟨9, 8, 7, 6, 4⟩ :: [] ∧
    (⟨9, 8, 7, 6, 4⟩ : PinMap).physical .reset = State.reset.cfg.pinmap.physical .reset ∧
    (∀ m', m' = State.reset.cfg.pinmap ∨ m' ∈ State.reset.others →
      ∀ p q : Line, (⟨9, 8, 7, 6, 5⟩ : PinMap).physical p ≠ m'.physical q) ∧
    (⟨9, 8, 7, 6, 5⟩ : PinMap) ∈ (addOther ⟨9, 8, 7, 6, 5⟩ State.reset).others ∧
    ({ Config.p0 with pinmap := ⟨10, 11, 12, 13, 5⟩ }).wf = true ∧
    ({ Config.p0 with pinmap := ⟨10, 11, 12, 13, 5⟩ }).pinmap.physical .reset =
      (⟨9, 8, 7, 6, 5⟩ : PinMap).physical .reset := by
  refine ⟨by decide, by decide, by decide, ?_, by decide, by decide, by decide⟩
  rintro m' (rfl | hm)
  · intro p q; cases p <;> cases q <;> decide
  · cases hm

theorem witness_StepRunsTheRequest :
    (withInput (.request ⟨0x3, 4, 0⟩)).busy = false ∧
    (withInput (.request ⟨0x3, 4, 0⟩)).inbox = .request ⟨0x3, 4, 0⟩ :: [] ∧
    decode State.reset.cfg (.request ⟨0x3, 4, 0⟩) = .instr (.readMem32 4) [] := by decide

theorem witness_StepRunsTheFrame :
    (withInput (.frame (zeros 16))).inbox = .frame (zeros 16) :: [] ∧
    decode State.reset.cfg (.frame (zeros 16)) = .instr .cmdPoll [] ∧ framerCalledIn .cmdPoll .synchronized = true ∧
    framerCalledIn (.cmdReadMem32 0) .debugMode = true ∧ framerCalledIn .cmdEnterDebug .synchronized = true ∧
    framerCalledIn .cmdPoll .unknown = false := by decide +kernel

theorem witness_IdleEngineHoldsItsState : State.reset.inbox = [] := rfl

theorem witness_ConnectStopsAtTheFirstError :
    (withInput (.requestIfOk ⟨0x1, 0, 0⟩)).busy = false ∧
    (withInput (.requestIfOk ⟨0x1, 0, 0⟩)).inbox = .requestIfOk ⟨0x1, 0, 0⟩ :: [] ∧
    decodeRequest ⟨0x1, 0, 0⟩ = .instr .sync [] ∧
    ({ withInput (.requestIfOk ⟨0x1, 0, 0⟩) with resKind := some 0 }).resKind = some 0 ∧
    ({ withInput (.requestIfOk ⟨0x1, 0, 0⟩) with resKind := some 4 }).resKind ≠ some 0 := by decide

theorem witness_StepKeepsTheEngineIdle :
    ∃ t, Idle (withInput (.request ⟨0x0, 0, 0⟩)) ∧ step (withInput (.request ⟨0x0, 0, 0⟩)) = .next t :=
  ⟨_, ⟨by decide, rfl, rfl, rfl, rfl, rfl, rfl, rfl, rfl, rfl, .inl ⟨rfl, rfl, rfl⟩,
    by intro m hm; cases hm⟩, rfl⟩

theorem witness_ResetIsIdle : Config.p0.wf = true := by decide

end Sys2Proof.Tests
end

/-! ### Durations and the PINMAP: every instruction commutes with `retime` -/

namespace Sys2Proof.Machine

/-- `s` with the durations and the PINMAP of `c'`. -/
def retime (c' : Config) (s : State) : State := { s with cfg := retimed s.cfg c' }

section Retime

variable (c' : Config)

@[simp] theorem shiftOutBits_retime (b : BitSeq) (k : Nat) (s : State) :
    shiftOutBits b k (retime c' s) = retime c' (shiftOutBits b k s) := by
  induction k generalizing s with
  | zero => rfl
  | succ k ih => exact ih { pulse (dly .setup (wr .dsi (b.value.getLsbD k) s)) with nbit := k }

@[simp] theorem shiftOut_retime (b : BitSeq) (s : State) : shiftOut b (retime c' s) = retime c' (shiftOut b s) :=
  shiftOutBits_retime c' b b.width { s with nbit := b.width }

/-- What the target answers depends on the trace, not on the configuration (10_state R26). -/
@[simp] theorem shiftInBits_retime (n k : Nat) (s : State) :
    shiftInBits n k (retime c' s) = retime c' (shiftInBits n k s) := by
  induction k generalizing s with
  | zero => rfl
  | succ k ih =>
    exact ih { (pulseSample s).2 with sh := accumulate n (pulseSample s).2.sh (pulseSample s).1, nbit := k }

@[simp] theorem shiftIn_retime (n : Nat) (s : State) :
    shiftIn n (retime c' s) = ((shiftIn n s).1, retime c' (shiftIn n s).2) := by
  have h := shiftInBits_retime c' n n { dly .setup (wr .dsi false s) with sh := 0, nbit := n }
  exact congrArg (fun t : State => ((⟨n, t.sh.setWidth n⟩, t) : BitSeq × State)) h

@[simp] theorem sendFrame_retime (bs : List BitSeq) (s : State) :
    sendFrame bs (retime c' s) = retime c' (sendFrame bs s) := by
  induction bs generalizing s with
  | nil => rfl
  | cons b bs ih => rw [sendFrame, shiftOut_retime, ih, sendFrame]

@[simp] theorem frame_retimed (c : Config) (cmd : Command) : frame (retimed c c') cmd = frame c cmd := by
  cases cmd <;> rfl

@[simp] theorem pollOnce_retime (w : RespWidth) (s : State) :
    pollOnce w (retime c' s) = ((pollOnce w s).1, retime c' (pollOnce w s).2) := by
  have hf : frame (retime c' s).cfg .poll = frame s.cfg .poll := frame_retimed c' s.cfg .poll
  rw [pollOnce, hf, sendFrame_retime, shiftIn_retime, pollOnce]

@[simp] theorem pollLoop_retime (w : RespWidth) (left : Nat) (r : BitSeq) (s : State) :
    pollLoop w left (r, retime c' s) = ((pollLoop w left (r, s)).1, retime c' (pollLoop w left (r, s)).2) := by
  induction left generalizing r s with
  | zero => unfold pollLoop; split <;> rfl
  | succ left ih =>
    unfold pollLoop
    split
    · have h := pollOnce_retime c' w { s with polls := s.polls + 1 }
      exact (congrArg (pollLoop w left) h).trans (ih _ _)
    · rfl

@[simp] theorem recvResponse_retime (w : RespWidth) (s : State) :
    recvResponse w (retime c' s) = ((recvResponse w s).1, retime c' (recvResponse w s).2) := by
  simp only [recvResponse, shiftIn_retime]
  exact pollLoop_retime c' w _ _ { (shiftIn (1 + w.bits) s).2 with polls := 0 }

@[simp] theorem stage_retime (cmd : Command) (s : State) : stage cmd (retime c' s) = retime c' (stage cmd s) := by
  cases cmd <;> rfl

@[simp] theorem sendCommand_retime (cmd : Command) (s : State) :
    sendCommand cmd (retime c' s) = ((sendCommand cmd s).1, retime c' (sendCommand cmd s).2) := by
  have hf : frame (retime c' s).cfg cmd = frame s.cfg cmd := frame_retimed c' s.cfg cmd
  rw [sendCommand, hf, stage_retime, sendFrame_retime, sendCommand]
  cases responseWidth cmd with
  | none => rfl
  | some w => exact recvResponse_retime c' w _

@[simp] theorem runCommand_retime (cmd : Command) (s : State) :
    runCommand cmd (retime c' s) = retime c' (runCommand cmd s) := by
  rw [runCommand, sendCommand_retime, runCommand]; rfl

@[simp] theorem accept_retime (s : State) : accept (retime c' s) = retime c' (accept s) := rfl

/-- An access commutes with `retime` where what it makes of the framer's answer does. -/
theorem access_retime (ok : Bool) (bad : Kind) (cmd : Command) (done : FramerRet × State → State)
    (hdone : ∀ r t, done (r, retime c' t) = retime c' (done (r, t))) (s : State) :
    access ok bad cmd done (retime c' s) = retime c' (access ok bad cmd done s) := by
  have hts : (retime c' s).ts = s.ts := rfl
  simp only [access, hts, sendCommand_retime, hdone]
  split
  · split <;> rfl
  · rfl

theorem readResult_retime (r : FramerRet) (t : State) : readResult (r, retime c' t) = retime c' (readResult (r, t)) := by
  cases r <;> rfl

theorem writeResult_retime (r : FramerRet) (t : State) :
    writeResult (r, retime c' t) = retime c' (writeResult (r, t)) := rfl

theorem enterDebugResult_retime (r : FramerRet) (t : State) :
    enterDebugResult (r, retime c' t) = retime c' (enterDebugResult (r, t)) := by
  have hc : (retime c' t).cfg.enterAck = t.cfg.enterAck := rfl
  cases r with
  | data d => simp only [enterDebugResult, hc]; split <;> rfl
  | nothing => rfl
  | timeout => rfl
  | response d => rfl

@[simp] theorem syncStimulus_retime (s : State) : syncStimulus (retime c' s) = retime c' (syncStimulus s) := by
  have h := shiftOut_retime c' s.cfg.syncPattern (releaseLine .bkpt (dly .bkptHold (assertLine .bkpt s)))
  exact congrArg (fun t : State => { dly .setup (wr .dsi false t) with win := 0, cyc := 0 }) h

@[simp] theorem hunt_retime (left : Nat) (s : State) :
    hunt left (retime c' s) = ((hunt left s).1, retime c' (hunt left s).2) := by
  induction left generalizing s with
  | zero => rfl
  | succ left ih =>
    have hcycle : huntCycle (retime c' s) = retime c' (huntCycle s) := rfl
    have hmatch : windowMatches (retime c' (huntCycle s)) = windowMatches (huntCycle s) := rfl
    simp only [hunt, hcycle, hmatch, ih]
    split <;> rfl

/-- SYNC's window is as long, and ends the same way (70_reset_and_hazards R214). -/
theorem execSync_retime (s : State) :
    ∃ t, execSync s = .next t ∧ execSync (retime c' s) = .next (retime c' t) := by
  have hts : (retime c' (accept s)).ts = (accept s).ts := rfl
  have hmax : (retime c' (accept s)).cfg.syncMaxCycles = (accept s).cfg.syncMaxCycles := rfl
  simp only [execSync, accept_retime, hts, hmax, syncStimulus_retime, hunt_retime]
  split
  · exact ⟨_, rfl, rfl⟩
  · split <;> exact ⟨_, rfl, rfl⟩

theorem execEnterDebug_retime (s : State) :
    ∃ t, execEnterDebug s = .next t ∧ execEnterDebug (retime c' s) = .next (retime c' t) := by
  have hts : (retime c' (accept s)).ts = (accept s).ts := rfl
  simp only [execEnterDebug, accept_retime, hts, sendCommand_retime, enterDebugResult_retime]
  split <;> exact ⟨_, rfl, rfl⟩

theorem execCmdPoll_retime (s : State) :
    ∃ t, execCmdPoll s = .next t ∧ execCmdPoll (retime c' s) = .next (retime c' t) := by
  have hw : pollWidth (retime c' s) = pollWidth s := rfl
  simp only [execCmdPoll, hw, pollOnce_retime]
  exact ⟨_, rfl, rfl⟩

/-- Every instruction has a next state, and the durations and the PINMAP have no say in it (00_scope R14,
40_bit_engine R104, 70_reset_and_hazards R214). -/
theorem exec_retime (i : Instr) (s : State) :
    ∃ t, exec i s = .next t ∧ exec i (retime c' s) = .next (retime c' t) := by
  have read := fun ok bad cmd => access_retime c' ok bad cmd readResult (readResult_retime c') (accept s)
  have write := fun ok bad cmd => access_retime c' ok bad cmd writeResult (writeResult_retime c') (accept s)
  cases i with
  | resetTarget => exact ⟨_, rfl, rfl⟩
  | sync => exact execSync_retime c' s
  | enterDebug => exact execEnterDebug_retime c' s
  | readMem32 a => exact ⟨_, rfl, congrArg Host.Outcome.next (read _ _ _)⟩
  | writeMem32 a d => exact ⟨_, rfl, congrArg Host.Outcome.next (write _ _ _)⟩
  | readReg r => exact ⟨_, rfl, congrArg Host.Outcome.next (read _ _ _)⟩
  | writeReg r d => exact ⟨_, rfl, congrArg Host.Outcome.next (write _ _ _)⟩
  | disconnect => exact ⟨_, rfl, rfl⟩
  | cmdReadMem32 a => exact ⟨_, rfl, congrArg Host.Outcome.next (runCommand_retime c' _ s)⟩
  | cmdWriteMem32 a d => exact ⟨_, rfl, congrArg Host.Outcome.next (runCommand_retime c' _ s)⟩
  | cmdReadReg r => exact ⟨_, rfl, congrArg Host.Outcome.next (runCommand_retime c' _ s)⟩
  | cmdWriteReg r d => exact ⟨_, rfl, congrArg Host.Outcome.next (runCommand_retime c' _ s)⟩
  | cmdEnterDebug => exact ⟨_, rfl, congrArg Host.Outcome.next (runCommand_retime c' _ s)⟩
  | cmdPoll => exact execCmdPoll_retime c' s

end Retime

/-- Settles O41: every operation of the engine commutes with `retime`, up to `exec`. -/
theorem noRuleReadsADuration : Obligations.NoRuleReadsADuration := by
  unfold Obligations.NoRuleReadsADuration
  intro i s c'
  exact exec_retime c' i s

end Sys2Proof.Machine

/-! ### The lines: what events make of them -/

namespace Sys2Proof.Machine

/-- The lines as an operation leaves them between operations: DSCLK low, BKPT and RESET released, the directions of
10_state R25. -/
structure LinesIdle (s : State) : Prop where
  clockLow     : s.lvDsclk = false
  bkptFree     : s.lvBkpt = !s.cfg.bkptActive
  resetFree    : s.lvReset = !s.cfg.resetActive
  dsiOut       : s.dirDsi = .output
  dsclkOut     : s.dirDsclk = .output
  bkptOut      : s.dirBkpt = .output
  resetOut     : s.dirReset = .output
  dsoIn        : s.dirDso = .input

/-- Events that lead from idle lines to idle lines, in configuration `c`. -/
def KeepsLinesIdle (c : Config) (es : List Event) : Prop := ∀ s : State, s.cfg = c → LinesIdle s → LinesIdle (emits es s)

section KeepsLinesIdle

variable {c : Config}

theorem KeepsLinesIdle.nil : KeepsLinesIdle c [] := fun _ _ h => h

theorem KeepsLinesIdle.append {es fs : List Event} (h : KeepsLinesIdle c es) (g : KeepsLinesIdle c fs) :
    KeepsLinesIdle c (es ++ fs) := by
  intro s hc hs
  rw [emits_append]
  exact g _ (by simpa using hc) (h s hc hs)

theorem KeepsLinesIdle.flatMap {α : Type} {f : α → List Event} (h : ∀ a, KeepsLinesIdle c (f a)) (l : List α) :
    KeepsLinesIdle c (l.flatMap f) := by
  induction l with
  | nil => exact .nil
  | cons a l ih => exact (h a).append ih

/-- One bit out: DSI moves, DSCLK goes up and comes down (40_bit_engine R103, R105). -/
theorem keepsLinesIdle_bitEvents (b : Bool) : KeepsLinesIdle c (bitEvents b) := by
  rintro s - ⟨_, hb, hr, h1, h2, h3, h4, h5⟩
  exact ⟨rfl, hb, hr, h1, h2, h3, h4, h5⟩

/-- One bit in: DSCLK goes up and comes down (40_bit_engine R103, R106). -/
theorem keepsLinesIdle_sampleEvents (b : Bool) : KeepsLinesIdle c (sampleEvents b) := by
  rintro s - ⟨_, hb, hr, h1, h2, h3, h4, h5⟩
  exact ⟨rfl, hb, hr, h1, h2, h3, h4, h5⟩

/-- DSI is held at 0 before bits come in (40_bit_engine R106). -/
theorem keepsLinesIdle_holdDsi : KeepsLinesIdle c [.wr .dsi false, .dly .setup] := by
  rintro s - ⟨h0, hb, hr, h1, h2, h3, h4, h5⟩
  exact ⟨h0, hb, hr, h1, h2, h3, h4, h5⟩

/-- The BKPT pulse of SYNC ends released (41_sync_reset R124). -/
theorem keepsLinesIdle_bkptPulse :
    KeepsLinesIdle c [.wr .bkpt c.bkptActive, .dly .bkptHold, .wr .bkpt (!c.bkptActive)] := by
  rintro s rfl ⟨h0, _, hr, h1, h2, h3, h4, h5⟩
  exact ⟨h0, rfl, hr, h1, h2, h3, h4, h5⟩

/-- RESET_TARGET's pulse ends released (41_sync_reset R120). -/
theorem keepsLinesIdle_resetTargetEvents : KeepsLinesIdle c (resetTargetEvents c) := by
  rintro s rfl ⟨h0, hb, _, h1, h2, h3, h4, h5⟩
  exact ⟨h0, hb, rfl, h1, h2, h3, h4, h5⟩

theorem keepsLinesIdle_shiftOutEvents (b : BitSeq) : KeepsLinesIdle c (shiftOutEvents b) :=
  .flatMap keepsLinesIdle_bitEvents _

theorem keepsLinesIdle_shiftInEvents (bits : List Bool) : KeepsLinesIdle c (shiftInEvents bits) :=
  keepsLinesIdle_holdDsi.append (.flatMap keepsLinesIdle_sampleEvents _)

theorem keepsLinesIdle_frameEvents (c' : Config) (cmd : Command) : KeepsLinesIdle c (frameEvents c' cmd) :=
  .flatMap keepsLinesIdle_shiftOutEvents _

theorem keepsLinesIdle_responseEvents (c' : Config) (w : RespWidth) (left : Nat) (bits : List Bool) :
    KeepsLinesIdle c (responseEvents c' w left bits) := by
  induction left generalizing bits with
  | zero => exact keepsLinesIdle_shiftInEvents _
  | succ left ih =>
    refine (keepsLinesIdle_shiftInEvents _).append ?_
    split
    · exact (keepsLinesIdle_frameEvents c' .poll).append (ih _)
    · exact .nil

end KeepsLinesIdle

/-! ### What an instruction can do -/

/-- `t` is `s` after events that keep idle lines idle, as far as anyone outside can see. -/
def RunsTo (s t : State) : Prop := ∃ es, KeepsLinesIdle s.cfg es ∧ After es s t

theorem RunsTo.refl (s : State) : RunsTo s s := ⟨[], .nil, After.refl s⟩

theorem RunsTo.trans {s t u : State} (h : RunsTo s t) (g : RunsTo t u) : RunsTo s u := by
  obtain ⟨es, hes, hA⟩ := h
  obtain ⟨fs, hfs, gA⟩ := g
  exact ⟨es ++ fs, hes.append (hA.cfg_eq ▸ hfs), hA.trans gA⟩

/-- Every command runs so, and one with a response answers a time-out or data of its width (42_command_framer R145,
R146). -/
theorem sendCommand_runs (cmd : Command) (s : State) :
    RunsTo s (sendCommand cmd s).2 ∧
      ∀ w, responseWidth cmd = some w →
        (sendCommand cmd s).1 = .timeout ∨ ∃ v : BitVec w.bits, (sendCommand cmd s).1 = .data ⟨w.bits, v⟩ := by
  cases hw : responseWidth cmd with
  | none =>
    obtain ⟨-, hA⟩ := sendCommand_write cmd hw s
    exact ⟨⟨_, keepsLinesIdle_frameEvents _ _, hA⟩, by intro w h; cases h⟩
  | some w =>
    obtain ⟨bits, hans, hA, -⟩ := sendCommand_read cmd w hw s
    refine ⟨⟨_, (keepsLinesIdle_frameEvents _ _).append (keepsLinesIdle_responseEvents _ _ _ _), hA⟩, ?_⟩
    rintro w' ⟨⟩
    rw [hans]
    exact answerOf_cases w _ bits

theorem hunt_runs (left : Nat) (s : State) : RunsTo s (hunt left s).2 := by
  induction left generalizing s with
  | zero => exact .refl s
  | succ left ih =>
    obtain ⟨b, hA, -⟩ := huntCycle_spec s
    have hcycle : RunsTo s (huntCycle s) := ⟨_, keepsLinesIdle_sampleEvents b, hA⟩
    simp only [hunt]
    split
    · exact hcycle
    · exact hcycle.trans (ih _)

theorem syncStimulus_runs (s : State) : RunsTo s (syncStimulus s) :=
  ⟨_, (keepsLinesIdle_bkptPulse.append (keepsLinesIdle_shiftOutEvents _)).append keepsLinesIdle_holdDsi,
    (syncStimulus_spec s).1⟩

/-- How an instruction that started in `s` ends: an operation with a response (10_state R28, R29), or a command run by
itself with what the framer returns (42_command_framer R140). -/
inductive Ends (s : State) : State → Prop
  | responded {u : State} (x : TargetState) (k : Kind) (c : Cause) (d : Option Word) (hrun : RunsTo (accept s) u)
      (hlegal : resultLegal (some k.code) (some c.code) d) : Ends s (respond k c d (setTs x u))
  | returned {u : State} (r : FramerRet) (hrun : RunsTo s u) : Ends s { u with framerRet := some r }

/-- An operation that ends with `TS` as it is. -/
theorem Ends.respondedSame {s u : State} (k : Kind) (c : Cause) (d : Option Word) (hrun : RunsTo (accept s) u)
    (hlegal : resultLegal (some k.code) (some c.code) d) : Ends s (respond k c d u) :=
  .responded u.ts k c d hrun hlegal

theorem resultLegal_ok (d : Option Word) : resultLegal (some Kind.ok.code) (some Cause.none.code) d :=
  .inr (.inl ⟨rfl, rfl⟩)

/-- The errors without data: one line of 60_exceptions R182 each. -/
theorem resultLegal_error {k : Kind} {c : Cause}
    (h : (c = .none ∧ k ∈ [Kind.synchronizationError, .stateError, .alignmentError, .invalidRegisterError]) ∨
      (c = .commandTimeout ∧ k ∈ [Kind.debugModeEntryError, .memoryAccessError]) ∨
      (c = .stateError ∧ k = .memoryAccessError)) : resultLegal (some k.code) (some c.code) none := by
  unfold resultLegal
  simp only [List.mem_cons, List.not_mem_nil, or_false] at h
  rcases h with ⟨rfl, rfl | rfl | rfl | rfl⟩ | ⟨rfl, rfl | rfl⟩ | ⟨rfl, rfl⟩ <;> decide

/-- A refused ENTER_DEBUG hands back its 16-bit answer (41_sync_reset R126). -/
theorem resultLegal_refused (v : BitVec 16) :
    resultLegal (some Kind.debugModeEntryError.code) (some Cause.refused.code) (some (v.setWidth 32)) := by
  refine .inr (.inr (.inl ⟨rfl, rfl, _, rfl, ?_⟩))
  have := v.isLt
  simp only [BitVec.toNat_setWidth]; omega

/-- An access ends with its operand error, its state error, or what `done` makes of the command (43_access_layer
R160). -/
theorem access_ends {bad : Kind} (hbad : bad = .alignmentError ∨ bad = .invalidRegisterError) (ok : Bool)
    (cmd : Command) (done : FramerRet × State → State) (s : State)
    (hdone : Ends s (done (sendCommand cmd (accept s)))) : Ends s (access ok bad cmd done (accept s)) := by
  rcases access_cases ok bad cmd done (accept s) with ⟨-, h⟩ | ⟨-, -, h⟩ | ⟨-, -, h⟩
  · rw [h]
    refine .respondedSame _ _ _ (.refl _) (resultLegal_error (.inl ⟨rfl, ?_⟩))
    rcases hbad with rfl | rfl <;> decide
  · rw [h]
    exact .respondedSame _ _ _ (.refl _) (resultLegal_error (.inr (.inr ⟨rfl, rfl⟩)))
  · rw [h]; exact hdone

/-- A read ends OK with the word, or with the time-out (43_access_layer R161, R165). -/
theorem readResult_ends {cmd : Command} {w : RespWidth} (hw : responseWidth cmd = some w) (s : State) :
    Ends s (readResult (sendCommand cmd (accept s))) := by
  obtain ⟨hrun, hans⟩ := sendCommand_runs cmd (accept s)
  unfold readResult
  rcases hans w hw with h | ⟨v, h⟩ <;> rw [h]
  · exact .responded _ _ _ _ hrun (resultLegal_error (.inr (.inl ⟨rfl, by decide⟩)))
  · exact .respondedSame _ _ _ hrun (resultLegal_ok _)

theorem writeResult_ends (cmd : Command) (s : State) : Ends s (writeResult (sendCommand cmd (accept s))) :=
  .respondedSame _ _ _ (sendCommand_runs cmd (accept s)).1 (resultLegal_ok _)

/-- ENTER_DEBUG ends OK, refused with the answer, or with the time-out (41_sync_reset R125, R126). -/
theorem enterDebugResult_ends (s : State) : Ends s (enterDebugResult (sendCommand .enterDebug (accept s))) := by
  obtain ⟨hrun, hans⟩ := sendCommand_runs .enterDebug (accept s)
  unfold enterDebugResult
  rcases hans .w16 rfl with h | ⟨v, h⟩ <;> rw [h]
  · exact .respondedSame _ _ _ hrun (resultLegal_error (.inr (.inl ⟨rfl, by decide⟩)))
  · dsimp only
    split
    · exact .responded _ _ _ _ hrun (resultLegal_ok _)
    · exact .respondedSame _ _ _ hrun (resultLegal_refused v)

theorem execEnterDebug_ends {s t : State} (h : execEnterDebug s = .next t) : Ends s t := by
  simp only [execEnterDebug] at h
  split at h <;> cases h
  · exact .respondedSame _ _ _ (.refl _) (resultLegal_error (.inl ⟨rfl, by decide⟩))
  · exact enterDebugResult_ends s

theorem execSync_ends {s t : State} (h : execSync s = .next t) : Ends s t := by
  have hrun : RunsTo (accept s) (hunt (accept s).cfg.syncMaxCycles (syncStimulus (accept s))).2 :=
    (syncStimulus_runs _).trans (hunt_runs _ _)
  simp only [execSync] at h
  split at h
  · cases h
    exact .respondedSame _ _ _ (.refl _) (resultLegal_error (.inl ⟨rfl, by decide⟩))
  · split at h <;> cases h
    · exact .responded _ _ _ _ hrun (resultLegal_ok _)
    · exact .respondedSame _ _ _ hrun (resultLegal_error (.inl ⟨rfl, by decide⟩))

theorem execResetTarget_ends {s t : State} (h : execResetTarget s = .next t) : Ends s t := by
  cases h
  exact .responded .reset .ok .none none ⟨_, keepsLinesIdle_resetTargetEvents, After.of_emits rfl⟩ (resultLegal_ok _)

theorem execDisconnect_ends {s t : State} (h : execDisconnect s = .next t) : Ends s t := by
  cases h
  exact .responded .unknown .ok .none none (.refl _) (resultLegal_ok _)

theorem runCommand_ends {cmd : Command} {s t : State}
    (h : (.next (runCommand cmd s) : Host.Outcome State Fault Refusal) = .next t) : Ends s t := by
  rw [← Host.Outcome.next.inj h]
  exact .returned _ (sendCommand_runs cmd s).1

theorem execCmdPoll_ends {s t : State} (h : execCmdPoll s = .next t) : Ends s t := by
  cases h
  obtain ⟨bits, -, -, hA, -⟩ := pollOnce_spec (pollWidth s) s
  exact .returned _ ⟨_, (keepsLinesIdle_frameEvents _ _).append (keepsLinesIdle_shiftInEvents _), hA⟩

/-- Everything an instruction can do. -/
theorem exec_ends {i : Instr} {s t : State} (h : exec i s = .next t) : Ends s t := by
  cases i with
  | resetTarget => exact execResetTarget_ends h
  | sync => exact execSync_ends h
  | enterDebug => exact execEnterDebug_ends h
  | readMem32 a => cases h; exact access_ends (.inl rfl) _ _ _ s (readResult_ends rfl s)
  | writeMem32 a d => cases h; exact access_ends (.inl rfl) _ _ _ s (writeResult_ends _ s)
  | readReg r => cases h; exact access_ends (.inr rfl) _ _ _ s (readResult_ends rfl s)
  | writeReg r d => cases h; exact access_ends (.inr rfl) _ _ _ s (writeResult_ends _ s)
  | disconnect => exact execDisconnect_ends h
  | cmdReadMem32 a => exact runCommand_ends h
  | cmdWriteMem32 a d => exact runCommand_ends h
  | cmdReadReg r => exact runCommand_ends h
  | cmdWriteReg r d => exact runCommand_ends h
  | cmdEnterDebug => exact runCommand_ends h
  | cmdPoll => exact execCmdPoll_ends h

/-! ### Latches, directions, trace and answers -/

/-- What events act on: latches, directions, trace and answers; every other field at one fixed value. -/
def wires (s : State) : State :=
  { State.reset with
    lvDsi := s.lvDsi, lvDsclk := s.lvDsclk, lvBkpt := s.lvBkpt, lvReset := s.lvReset
    dirDsi := s.dirDsi, dirDso := s.dirDso, dirDsclk := s.dirDsclk, dirBkpt := s.dirBkpt, dirReset := s.dirReset
    trace := s.trace, dso := s.dso }

theorem wires_emits (es : List Event) (s : State) : wires (emits es s) = emits es (wires s) := by
  induction es generalizing s with
  | nil => rfl
  | cons e es ih => exact ih (emit e s)

/-- Equal wires, field by field. -/
theorem wires_field {α : Type} (f : State → α) {s t : State} (h : wires t = wires s) : f (wires t) = f (wires s) :=
  congrArg f h

/-- The wires follow the events, whatever became of the rest. -/
theorem After.wires_eq {es : List Event} {s t : State} (h : After es s t) : wires t = wires (emits es s) := by
  have e : wires (scrub t) = wires (scrub (emits es s)) := by rw [h, scrub_emits]
  exact e

/-- The wires follow the events of the whole instruction, which its trace lists. -/
theorem wires_exec {i : Instr} {s t : State} (h : exec i s = .next t) : wires t = wires (emits (opTrace s t) s) := by
  cases exec_ends h with
  | @responded u x k c d hrun _ =>
    obtain ⟨es, -, hA⟩ := hrun
    have ht : opTrace s (respond k c d (setTs x u)) = es := hA.opTrace_eq
    rw [ht, wires_emits]
    exact hA.wires_eq.trans (wires_emits es (accept s))
  | @returned u r hrun =>
    obtain ⟨es, -, hA⟩ := hrun
    have ht : opTrace s { u with framerRet := some r } = es := hA.opTrace_eq
    rw [ht]
    exact hA.wires_eq

/-- Settles O38, from the one lemma that says what an instruction can do. -/
theorem pinsFollowTheTrace : Obligations.PinsFollowTheTrace := by
  unfold Obligations.PinsFollowTheTrace
  intro i s t h
  have field {α : Type} (f : State → α) := wires_field f (wires_exec h)
  exact ⟨field State.trace, field State.dso, field State.lvDsi, field State.lvDsclk, field State.lvBkpt,
    field State.lvReset, field State.dirDsi, field State.dirDso, field State.dirDsclk, field State.dirBkpt,
    field State.dirReset⟩

end Sys2Proof.Machine

/-! ### Between operations -/

namespace Sys2Proof.Machine

theorem linesIdle_scrub {s : State} : LinesIdle (scrub s) ↔ LinesIdle s :=
  ⟨fun ⟨h0, hb, hr, h1, h2, h3, h4, h5⟩ => ⟨h0, hb, hr, h1, h2, h3, h4, h5⟩,
   fun ⟨h0, hb, hr, h1, h2, h3, h4, h5⟩ => ⟨h0, hb, hr, h1, h2, h3, h4, h5⟩⟩

/-- What `Idle` speaks of beside the lines is left alone by a run. -/
theorem RunsTo.frame {s t : State} (h : RunsTo s t) :
    t.cfg = s.cfg ∧ t.others = s.others ∧ t.busy = s.busy ∧ t.resKind = s.resKind ∧ t.resCause = s.resCause ∧
      t.resData = s.resData := by
  obtain ⟨es, -, hA⟩ := h
  have field {α : Type} (f : State → α) : f (scrub t) = f (emits es (scrub s)) := congrArg f hA
  exact ⟨hA.cfg_eq, (field State.others).trans (emits_others ..), (field State.busy).trans (emits_busy ..),
    (field State.resKind).trans (emits_resKind ..), (field State.resCause).trans (emits_resCause ..),
    (field State.resData).trans (emits_resData ..)⟩

theorem RunsTo.linesIdle {s t : State} (h : RunsTo s t) (hs : LinesIdle s) : LinesIdle t := by
  obtain ⟨es, hes, hA⟩ := h
  have ht : LinesIdle (scrub t) := hA ▸ hes (scrub s) rfl (linesIdle_scrub.2 hs)
  exact linesIdle_scrub.1 ht

theorem Idle.lines {s : State} (h : Idle s) : LinesIdle s :=
  ⟨h.clockLow, h.bkptFree, h.resetFree, h.dsiOut, h.dsclkOut, h.bkptOut, h.resetOut, h.dsoIn⟩

theorem LinesIdle.idle {s : State} (h : LinesIdle s) (hwf : s.cfg.wf = true) (hbusy : s.busy = false)
    (hres : resultLegal s.resKind s.resCause s.resData) (hown : ∀ m ∈ s.others, m.shares s.cfg.pinmap = false) :
    Idle s :=
  ⟨hwf, hbusy, h.clockLow, h.bkptFree, h.resetFree, h.dsiOut, h.dsclkOut, h.bkptOut, h.resetOut, h.dsoIn, hres, hown⟩

/-- Lines are idle whatever the fields no line depends on. -/
theorem LinesIdle.congr {s t : State} (h : LinesIdle s) (hw : wires t = wires s) (hc : t.cfg = s.cfg) : LinesIdle t := by
  have field {α : Type} (f : State → α) := wires_field f hw
  obtain ⟨h0, hb, hr, h1, h2, h3, h4, h5⟩ := h
  exact ⟨(field State.lvDsclk).trans h0, hc ▸ (field State.lvBkpt).trans hb, hc ▸ (field State.lvReset).trans hr,
    (field State.dirDsi).trans h1, (field State.dirDsclk).trans h2, (field State.dirBkpt).trans h3,
    (field State.dirReset).trans h4, (field State.dirDso).trans h5⟩

theorem Ends.cfg_eq {s t : State} (h : Ends s t) : t.cfg = s.cfg := by
  cases h with
  | responded x k c d hrun hlegal => exact hrun.frame.1
  | returned r hrun => exact hrun.frame.1

/-- Every instruction leads from between operations to between operations. -/
theorem Ends.idle {s t : State} (h : Ends s t) (hs : Idle s) : Idle t := by
  cases h with
  | @responded u x k c d hrun hlegal =>
    obtain ⟨hc, ho, -⟩ := hrun.frame
    have hlines := hrun.linesIdle (hs.lines.congr (t := accept s) rfl rfl)
    refine (hlines.congr (t := respond k c d (setTs x u)) rfl rfl).idle ?_ rfl hlegal ?_
    · simpa [hc] using hs.cfgWf
    · simpa [hc, ho] using hs.linesOwn
  | @returned u r hrun =>
    obtain ⟨hc, ho, hb, hk, hca, hd⟩ := hrun.frame
    have hlines := hrun.linesIdle hs.lines
    refine (hlines.congr (t := { u with framerRet := some r }) rfl rfl).idle ?_ ?_ ?_ ?_
    · simpa [hc] using hs.cfgWf
    · simpa [hb] using hs.notBusy
    · simpa [hk, hca, hd] using hs.resultOk
    · simpa [hc, ho] using hs.linesOwn

/-- Engine reset sets levels and directions whatever they were (70_reset_and_hazards R200). -/
theorem idle_engineReset {c : Config} {s : State} (hc : c.wf = true) (ho : ∀ m ∈ s.others, m.shares c.pinmap = false) :
    Idle (engineReset c s) :=
  ⟨hc, rfl, rfl, rfl, rfl, rfl, rfl, rfl, rfl, rfl, .inl ⟨rfl, rfl, rfl⟩, ho⟩

theorem engineReset_cfg (c : Config) (s : State) : (engineReset c s).cfg = c := rfl

/-! ### The ports keep it -/

theorem idle_sees {s : State} (h : Idle s) (vs : List Word) : Idle (sees vs s) :=
  (h.lines.congr (t := sees vs s) rfl rfl).idle h.cfgWf h.notBusy h.resultOk h.linesOwn

theorem idle_addOther {s : State} (h : Idle s) {m : PinMap} (hm : s.cfg.pinmap.shares m = false) :
    Idle (addOther m s) := by
  refine (h.lines.congr (t := addOther m s) rfl rfl).idle h.cfgWf h.notBusy h.resultOk ?_
  intro m' hm'
  rcases List.mem_cons.1 hm' with rfl | hold
  · exact (shares_comm _ _).trans hm
  · exact h.linesOwn m' hold

/-- A request that gives a next state ran an instruction, with the engine not busy (70_reset_and_hazards R206). -/
theorem serveRequest_next {r : Request} {s t : State} (h : serveRequest r s = .next t) :
    s.busy = false ∧ ∃ i, exec i s = .next t := by
  unfold serveRequest at h
  split at h
  · cases h
  · rename_i hb
    refine ⟨by simpa using hb, ?_⟩
    split at h
    · exact ⟨_, h⟩
    · cases h

theorem serveFrame_next {bits : List Bool} {s t : State} (h : serveFrame bits s = .next t) :
    ∃ i, exec i s = .next t := by
  unfold serveFrame at h
  split at h
  · split at h
    · exact ⟨_, h⟩
    · cases h
  · cases h

theorem serveRequest_ends {r : Request} {s t : State} (h : serveRequest r s = .next t) : Ends s t := by
  obtain ⟨-, i, hi⟩ := serveRequest_next h
  exact exec_ends hi

/-! ### So do happenings -/

theorem midway_cfg {s t : State} (h : t.cfg = s.cfg) (n : Nat) : (midway n s t).cfg = t.cfg := by
  unfold midway
  split
  · simp [h]
  · rfl

/-- An engine that is not busy has ended what ran. -/
theorem midway_of_not_busy {n : Nat} {s t : State} (h : (midway n s t).busy = false) : midway n s t = t := by
  rcases Nat.lt_or_ge (opTrace s t).length n with hn | hn
  · exact midway_over hn
  · rw [midway_running hn] at h; cases h

/-- Whatever happens while `s` leads to `t`, in one configuration: if `t` is between operations, so is what comes of it
all. -/
theorem along_idle (l : List Happening) {k : Nat} {s t u : State} (hc : t.cfg = s.cfg) (ht : Idle t)
    (h : along l k s t = .next u) : Idle u := by
  induction l generalizing k s t with
  | nil => cases h; exact ht
  | cons a l ih =>
    obtain ⟨gap, what⟩ := a
    cases what with
    | hostRead p =>
      obtain ⟨s', hs', h⟩ := andThen_eq_next h
      obtain ⟨t', ht', h⟩ := andThen_eq_next h
      obtain ⟨v, -, rfl⟩ := serveRead_next hs'
      obtain ⟨w, -, rfl⟩ := serveRead_next ht'
      exact ih (s := sees [v] s) (t := sees [w] t) hc (idle_sees ht [w]) h
    | attachEngine m =>
      obtain ⟨_, hm, h⟩ := andThen_eq_next h
      obtain ⟨hown, -, -⟩ := serveAttach_next.1 hm
      rw [midway_cfg hc] at hown
      exact ih (s := addOther m s) (t := addOther m t) hc (idle_addOther ht hown) h
    | engineReset c =>
      obtain ⟨_, hr, h⟩ := andThen_eq_next h
      obtain ⟨hwf, hown, rfl⟩ := serveReset_next.1 hr
      exact ih (engineReset_cfg c _) (idle_engineReset hwf hown) h
    | request r =>
      obtain ⟨_, hr, h⟩ := andThen_eq_next h
      have hnow := midway_of_not_busy (serveRequest_next hr).1
      have hend := serveRequest_ends hr
      exact ih hend.cfg_eq (hend.idle (hnow.symm ▸ ht)) h

/-- Serving any input leads from between operations to between operations. -/
theorem serve_idle (i : Input) {s t : State} (hs : Idle s) (h : serve i s = .next t) : Idle t := by
  cases i with
  | request r => exact (serveRequest_ends h).idle hs
  | requestIfOk r =>
    simp only [serve] at h
    split at h
    · exact (serveRequest_ends h).idle hs
    · cases h; exact hs
  | requestDuring r l =>
    obtain ⟨u, hu, h⟩ := andThen_eq_next h
    have hend := serveRequest_ends hu
    exact along_idle l hend.cfg_eq (hend.idle hs) h
  | frame bits =>
    obtain ⟨i, hi⟩ := serveFrame_next h
    exact (exec_ends hi).idle hs
  | engineReset c =>
    obtain ⟨hwf, hown, rfl⟩ := serveReset_next.1 h
    exact idle_engineReset hwf hown
  | resetDuring c l =>
    obtain ⟨u, hu, h⟩ := andThen_eq_next h
    obtain ⟨hwf, hown, rfl⟩ := serveReset_next.1 hu
    exact along_idle l (engineReset_cfg c s) (idle_engineReset hwf hown) h
  | hostRead p =>
    obtain ⟨v, -, rfl⟩ := serveRead_next h
    exact idle_sees hs [v]
  | attachEngine m =>
    obtain ⟨hown, -, rfl⟩ := serveAttach_next.1 h
    exact idle_addOther hs hown

/-- Taking an input off the inbox touches nothing that `Idle` speaks of. -/
theorem idle_takeInput {s : State} (h : Idle s) (rest : List Input) : Idle { s with inbox := rest } :=
  (h.lines.congr (t := { s with inbox := rest }) rfl rfl).idle h.cfgWf h.notBusy h.resultOk h.linesOwn

/-- Settles O54: an idle step changes nothing, and serving an input keeps `Idle`, along all its happenings. -/
theorem stepKeepsTheEngineIdle : Obligations.StepKeepsTheEngineIdle := by
  unfold Obligations.StepKeepsTheEngineIdle
  intro s t hs h
  unfold step serveNext at h
  split at h
  · cases h; exact hs
  · exact serve_idle _ (idle_takeInput hs _) h

end Sys2Proof.Machine

/-! ### Physical lines -/

namespace Sys2Proof.Machine

/-- The logical lines in the order of `PinMap.lines`. -/
def allLines : List Line := [.dsi, .dso, .dsclk, .bkpt, .reset]

theorem mem_allLines (p : Line) : p ∈ allLines := by cases p <;> decide

theorem lines_eq_map (m : PinMap) : m.lines = allLines.map m.physical := rfl

/-- Two engines share a line exactly when a line of the one is a line of the other (60_exceptions R193). -/
theorem shares_iff (m m' : PinMap) : m.shares m' = true ↔ ∃ p q : Line, m.physical p = m'.physical q := by
  have mem (n : PinMap) (x : Nat) : x ∈ n.lines ↔ ∃ p, n.physical p = x := by
    simp [lines_eq_map, mem_allLines]
  simp only [PinMap.shares, List.any_eq_true, List.contains_iff_mem, mem]
  constructor
  · rintro ⟨x, ⟨p, rfl⟩, q, h⟩; exact ⟨p, q, h.symm⟩
  · rintro ⟨p, q, h⟩; exact ⟨_, ⟨p, rfl⟩, q, h.symm⟩

theorem shares_eq_false_iff (m m' : PinMap) : m.shares m' = false ↔ ∀ p q : Line, m.physical p ≠ m'.physical q := by
  rw [← Bool.not_eq_true, shares_iff]; push Not; rfl

/-- `PINMAP` is injective exactly when its five lines differ (00_scope R8). -/
theorem nodup_lines_iff (m : PinMap) :
    m.lines.Nodup ↔ ∀ p q : Line, m.physical p = m.physical q → p = q := by
  rw [lines_eq_map, List.nodup_map_iff_inj_on (by decide)]
  simp [mem_allLines]

/-! ### The command words of a register opcode -/

theorem mod_two_pow_eq_zero_iff_getLsbD {n : Nat} (v : BitVec n) (k : Nat) :
    v.toNat % 2 ^ k = 0 ↔ ∀ j < k, v.getLsbD j = false := by
  constructor
  · intro h j hj
    have := congrArg (Nat.testBit · j) h
    simpa [Nat.testBit_mod_two_pow, hj, BitVec.testBit_toNat] using this
  · intro h
    apply Nat.eq_of_testBit_eq
    intro j
    rw [Nat.testBit_mod_two_pow, Nat.zero_testBit]
    by_cases hj : j < k
    · simpa [hj, BitVec.testBit_toNat] using h j hj
    · simp [hj]

/-- The index field of `opc | i` for an opcode with zero index bits: the two do not overlap (30_encoding R72). -/
theorem toNat_or_index {k i : Nat} (hk : k ≤ 16) (hi : i < 2 ^ k) {opc : CmdWord} (ho : opc.toNat % 2 ^ k = 0) :
    (opc ||| BitVec.ofNat 16 i).toNat = opc.toNat + i := by
  have hi16 : i < 2 ^ 16 := lt_of_lt_of_le hi (Nat.pow_le_pow_right (by norm_num) hk)
  rw [BitVec.toNat_or, BitVec.toNat_ofNat, Nat.mod_eq_of_lt hi16, ← Nat.div_add_mod opc.toNat (2 ^ k), ho, Nat.add_zero,
    Nat.two_pow_add_eq_or_of_lt hi]

/-- The words `{opc | i : i < REG_COUNT}` (00_scope R9). -/
def IsRegWordOf (c : Config) (opc w : CmdWord) : Prop := ∃ i : Nat, i < c.regCount ∧ w = opc ||| BitVec.ofNat 16 i

/-- What 00_scope R8 and R9 say of the index field alone, and of an opcode with an index field. -/
structure IndexFits (c : Config) (opc : CmdWord) : Prop where
  widthLe   : c.regIdxW ≤ 16
  countLe   : c.regCount ≤ 2 ^ c.regIdxW
  indexZero : c.indexField opc = 0

section RegWords

variable {c : Config} {opc opc' w : CmdWord}

theorem IndexFits.toNat_or (h : IndexFits c opc) {i : Nat} (hi : i < c.regCount) :
    (opc ||| BitVec.ofNat 16 i).toNat = opc.toNat + i :=
  toNat_or_index h.widthLe (lt_of_lt_of_le hi h.countLe) h.indexZero

theorem IndexFits.indexField_or (h : IndexFits c opc) {i : Nat} (hi : i < c.regCount) :
    c.indexField (opc ||| BitVec.ofNat 16 i) = i := by
  have hz : opc.toNat % 2 ^ c.regIdxW = 0 := h.indexZero
  rw [Config.indexField, h.toNat_or hi, Nat.add_mod, hz, Nat.zero_add, Nat.mod_mod,
    Nat.mod_eq_of_lt (lt_of_lt_of_le hi h.countLe)]

/-- The test of a command word finds the words of its register opcode. -/
theorem isRegWord_iff (h : IndexFits c opc) : c.isRegWord opc w = true ↔ IsRegWordOf c opc w := by
  simp only [Config.isRegWord, Bool.and_eq_true, decide_eq_true_eq]
  constructor
  · rintro ⟨hopc, hi⟩
    refine ⟨c.indexField w, hi, BitVec.eq_of_toNat_eq ?_⟩
    have hle : c.indexField w ≤ w.toNat := Nat.mod_le _ _
    rw [h.toNat_or hi]; omega
  · rintro ⟨i, hi, rfl⟩
    rw [h.indexField_or hi, h.toNat_or hi]
    exact ⟨by omega, hi⟩

/-- Two register opcodes have a word in common only if they are one. -/
theorem regWords_disjoint_iff (h : IndexFits c opc) (h' : IndexFits c opc') (hpos : 1 ≤ c.regCount) :
    (∀ w, ¬ (IsRegWordOf c opc w ∧ IsRegWordOf c opc' w)) ↔ opc ≠ opc' := by
  constructor
  · rintro hdis rfl
    have hself : IsRegWordOf c opc opc := ⟨0, hpos, by simp⟩
    exact hdis opc ⟨hself, hself⟩
  · rintro hne w ⟨⟨i, hi, rfl⟩, j, hj, he⟩
    have hij : i = j := by rw [← h.indexField_or hi, he, h'.indexField_or hj]
    have hsum := congrArg BitVec.toNat he
    rw [h.toNat_or hi, h'.toNat_or hj] at hsum
    exact hne (BitVec.eq_of_toNat_eq (by omega))

end RegWords

/-! ### The six sets of command words -/

/-- The six sets of 00_scope R9, in its order. -/
def wordSets (c : Config) : List (CmdWord → Prop) :=
  [fun w => w = c.opcReadMem32, fun w => w = c.opcWriteMem32, IsRegWordOf c c.opcReadReg, IsRegWordOf c c.opcWriteReg,
   fun w => w = c.opcEnterDebug, fun w => w = c.opcPoll]

theorem disjoint_singleton_left (a : CmdWord) (P : CmdWord → Prop) : (∀ w, ¬ (w = a ∧ P w)) ↔ ¬ P a := by simp

theorem disjoint_singleton_right (a : CmdWord) (P : CmdWord → Prop) : (∀ w, ¬ (P w ∧ w = a)) ↔ ¬ P a :=
  ⟨fun h ha => h a ⟨ha, rfl⟩, fun h _ ⟨hw, he⟩ => h (he ▸ hw)⟩

/-- The test's three lines on command words say that R9's six sets are pairwise disjoint. -/
theorem wordSets_pairwise_iff {c : Config} (hread : IndexFits c c.opcReadReg) (hwrite : IndexFits c c.opcWriteReg)
    (hpos : 1 ≤ c.regCount) :
    (c.plainWords.Nodup ∧
      c.plainWords.all (fun w => !c.isRegWord c.opcReadReg w && !c.isRegWord c.opcWriteReg w) = true ∧
      c.opcReadReg ≠ c.opcWriteReg) ↔
    (wordSets c).Pairwise (fun p q => ∀ w, ¬ (p w ∧ q w)) := by
  have hr (w) : c.isRegWord c.opcReadReg w = false ↔ ¬ IsRegWordOf c c.opcReadReg w := by
    rw [← isRegWord_iff hread, Bool.not_eq_true]
  have hw (w) : c.isRegWord c.opcWriteReg w = false ↔ ¬ IsRegWordOf c c.opcWriteReg w := by
    rw [← isRegWord_iff hwrite, Bool.not_eq_true]
  simp only [wordSets, List.pairwise_cons, List.mem_cons, List.not_mem_nil, or_false, forall_eq_or_imp, forall_eq,
    false_imp_iff, implies_true, List.Pairwise.nil, and_true, disjoint_singleton_left, disjoint_singleton_right,
    regWords_disjoint_iff hread hwrite hpos, Config.plainWords, List.nodup_cons, List.nodup_nil, not_or, List.all_cons,
    List.all_nil, Bool.and_true, Bool.and_eq_true, Bool.not_eq_true', hr, hw, not_false_eq_true]
  tauto

/-- The Boolean test, its lines in R8's and R9's groups. -/
theorem wf_iff (c : Config) :
    c.wf = true ↔
      (1 ≤ c.regIdxW ∧ c.regIdxW ≤ 16 ∧ 1 ≤ c.regCount ∧ c.regCount ≤ 2 ^ c.regIdxW) ∧
      (c.indexField c.opcReadReg = 0 ∧ c.indexField c.opcWriteReg = 0) ∧
      (c.plainWords.Nodup ∧
        c.plainWords.all (fun w => !c.isRegWord c.opcReadReg w && !c.isRegWord c.opcWriteReg w) = true ∧
        c.opcReadReg ≠ c.opcWriteReg) ∧
      (1 ≤ c.syncPattern.width ∧ c.syncPattern.width ≤ 32) ∧
      (1 ≤ c.syncResponse.width ∧ c.syncResponse.width ≤ 32 ∧ c.syncResponse.width ≤ c.syncMaxCycles) ∧
      (0 < c.tClkHigh ∧ 0 < c.tClkLow ∧ 0 < c.tResetHold ∧ 0 < c.tBkptHold) ∧
      c.pinmap.lines.Nodup := by
  simp only [Config.wf, Bool.and_eq_true, decide_eq_true_eq, and_assoc]

theorem indexFields_zero_iff (c : Config) :
    (c.indexField c.opcReadReg = 0 ∧ c.indexField c.opcWriteReg = 0) ↔
      ∀ k < c.regIdxW, c.opcReadReg.getLsbD k = false ∧ c.opcWriteReg.getLsbD k = false := by
  simp only [Config.indexField, mod_two_pow_eq_zero_iff_getLsbD, imp_and, forall_and]

/-- Settles O6, group by group; the disjointness of the sets leans on the ranges and the zero index bits. -/
theorem configWellFormedIsRuleR9 : Obligations.ConfigWellFormedIsRuleR9 := by
  unfold Obligations.ConfigWellFormedIsRuleR9
  intro c regWords sets
  rw [wf_iff]
  refine and_congr_right fun ⟨_, hwidth, hpos, hcount⟩ => ?_
  rw [← indexFields_zero_iff]
  refine and_congr_right fun ⟨hread, hwrite⟩ => ?_
  rw [← nodup_lines_iff]
  exact and_congr_left' (wordSets_pairwise_iff ⟨hwidth, hcount, hread⟩ ⟨hwidth, hcount, hwrite⟩ hpos)

/-! ### Bad configurations -/

/-- A second engine on a line of this one, or of one configured before, is refused (60_exceptions R193). -/
theorem serveAttach_refused {m m' : PinMap} {s : State} (hm : m' = s.cfg.pinmap ∨ m' ∈ s.others)
    (h : m'.shares m = true) : serveAttach m s = .refused .sharedLines := by
  have hany : (s.cfg.pinmap :: s.others).any (fun m' => m'.shares m) = true :=
    List.any_eq_true.2 ⟨m', List.mem_cons.2 hm, h⟩
  rw [serveAttach, if_pos hany]

/-- Engine reset on a line of another engine is refused (60_exceptions R193). -/
theorem serveReset_refused {c : Config} {m : PinMap} {s : State} (hwf : c.wf = true) (hm : m ∈ s.others)
    (h : m.shares c.pinmap = true) : serveReset c s = .refused .sharedLines := by
  have hany : s.others.any (fun m => m.shares c.pinmap) = true := List.any_eq_true.2 ⟨m, hm, h⟩
  rw [serveReset, if_neg (by simp [hwf]), if_pos hany]

/-- A step with an input waiting serves it. -/
theorem step_of_inbox {s : State} {i : Input} {rest : List Input} (h : s.inbox = i :: rest) :
    step s = serve i { s with inbox := rest } := by
  simp only [step, serveNext, h]

/-- Settles O49, input by input: what the port answers, by `shares_iff`. -/
theorem badConfigurationsRefused : Obligations.BadConfigurationsRefused := by
  unfold Obligations.BadConfigurationsRefused
  refine ⟨?illFormed, ?attachShared, ?attachOwn, ?resetShared⟩
  case illFormed =>
    intro s c rest hwf hin
    rw [step_of_inbox hin]
    simp [serve, serveReset, hwf]
  case attachShared =>
    intro s m m' p q rest hm hpq hin
    rw [step_of_inbox hin]
    exact serveAttach_refused hm ((shares_iff m' m).2 ⟨q, p, hpq.symm⟩)
  case attachOwn =>
    intro s m rest hown hin
    have free (m') (hm : m' = s.cfg.pinmap ∨ m' ∈ s.others) : m'.shares m = false := by
      rw [shares_comm, shares_eq_false_iff]
      exact hown m' hm
    rw [step_of_inbox hin]
    exact serveAttach_next.2 ⟨free _ (.inl rfl), fun m' hm => free m' (.inr hm), rfl⟩
  case resetShared =>
    intro s c m p q rest hwf hm hpq hin
    rw [step_of_inbox hin]
    exact serveReset_refused hwf hm ((shares_iff m c.pinmap).2 ⟨q, p, hpq.symm⟩)

/-! ### Right after engine reset -/

theorem idle_resetWith {c : Config} (hc : c.wf = true) : Idle (State.resetWith c) :=
  ⟨hc, rfl, rfl, rfl, rfl, rfl, rfl, rfl, rfl, rfl, .inl ⟨rfl, rfl, rfl⟩, by intro m hm; cases hm⟩

theorem wf_p0 : Config.p0.wf = true := by decide

/-- Settles O55; with O54 it makes `Idle` an invariant of every run. -/
theorem resetIsIdle : Obligations.ResetIsIdle := by
  unfold Obligations.ResetIsIdle
  refine ⟨?_, wf_p0, rfl, idle_resetWith wf_p0⟩
  intro c
  exact ⟨rfl, rfl, rfl, rfl, rfl, rfl, rfl, rfl, idle_resetWith⟩

/-! ### What the target takes from ShiftOut -/

/-- One bit out makes such a target take it, at the one rising edge (40_bit_engine R105, R108). -/
theorem sampledAtRise_bitEvents (dsi b : Bool) (es : List Event) :
    sampledAtRise dsi false (bitEvents b ++ es) = b :: sampledAtRise b false es := rfl

theorem sampledAtRise_flatMap_bitEvents (bits : List Bool) (dsi : Bool) :
    sampledAtRise dsi false (bits.flatMap bitEvents) = bits := by
  induction bits generalizing dsi with
  | nil => rfl
  | cons b bits ih => rw [List.flatMap_cons, sampledAtRise_bitEvents, ih]

/-- DSI stays at the last bit sent, DSCLK ends low (40_bit_engine R105). -/
theorem emits_flatMap_bitEvents_levels (bits : List Bool) (s : State) :
    (emits (bits.flatMap bitEvents) s).lvDsi = bits.getLastD s.lvDsi ∧
      (s.lvDsclk = false → (emits (bits.flatMap bitEvents) s).lvDsclk = false) := by
  induction bits generalizing s with
  | nil => exact ⟨rfl, id⟩
  | cons b bits ih =>
    obtain ⟨hdsi, hclk⟩ := ih (emits (bitEvents b) s)
    rw [List.flatMap_cons, emits_append, hdsi, List.getLastD_cons]
    exact ⟨rfl, fun _ => hclk rfl⟩

/-- Bit `k` on the wire (00_scope R12). -/
theorem wireBits_getElem (b : BitSeq) {k : Nat} (h : k < b.width) :
    (wireBits b)[k]? = some (b.value.getLsbD (b.width - 1 - k)) := bitsDown_getElem b.value b.width k h

/-- The last bit on the wire is bit 0. -/
theorem wireBits_getLastD (b : BitSeq) (h : 1 ≤ b.width) (d : Bool) :
    (wireBits b).getLastD d = b.value.getLsbD 0 := by
  rw [List.getLastD_eq_getLast?, List.getLast?_eq_getElem?, wireBits_length, wireBits_getElem b (by omega), Nat.sub_self]
  rfl

/-- Settles O8: ShiftOut is its bits' events, and each makes the target take its bit. -/
theorem shiftOutDeliversEveryBit : Obligations.ShiftOutDeliversEveryBit := by
  unfold Obligations.ShiftOutDeliversEveryBit
  intro b s hwidth hlow
  have hA := shiftOut_spec b s
  have field {α : Type} (f : State → α) := wires_field f hA.wires_eq
  obtain ⟨hdsi, hclk⟩ := emits_flatMap_bitEvents_levels (wireBits b) s
  refine ⟨?sees, wireBits_length b, fun k hk => wireBits_getElem b hk, ?dsi, ?dsclk⟩
  case sees =>
    rw [targetSees, hA.opTrace_eq, hlow]
    exact sampledAtRise_flatMap_bitEvents _ _
  case dsi =>
    calc (shiftOut b s).lvDsi
        = (emits (shiftOutEvents b) s).lvDsi := field State.lvDsi
      _ = (wireBits b).getLastD s.lvDsi := hdsi
      _ = b.value.getLsbD 0 := wireBits_getLastD b hwidth _
  case dsclk =>
    calc (shiftOut b s).lvDsclk
        = (emits (shiftOutEvents b) s).lvDsclk := field State.lvDsclk
      _ = false := hclk hlow

end Sys2Proof.Machine

/-! ### Transient registers: what they hold at the start reaches no one -/

namespace Sys2Proof.Machine

/-- Two answers, each with the state after it: the same answer, and states that differ in transient registers only. -/
def Alike {α : Type} (p q : α × State) : Prop := p.1 = q.1 ∧ scrub p.2 = scrub q.2

theorem scrub_field {α : Type} (f : State → α) {s s' : State} (h : scrub s = scrub s') : f (scrub s) = f (scrub s') :=
  congrArg f h

theorem After.scrub_congr {es : List Event} {s s' t t' : State} (ht : After es s t) (ht' : After es s' t')
    (h : scrub s = scrub s') : scrub t = scrub t' := by
  rw [ht, ht', h]

section Alike

variable {s s' : State}

/-- A target answers what it has seen, not what the engine's registers hold (10_state R26). -/
theorem pulseSample_alike (h : scrub s = scrub s') : Alike (pulseSample s) (pulseSample s') :=
  ⟨scrub_field (fun u => (pulseSample u).1) h, scrub_field (fun u => (pulseSample u).2) h⟩

/-- The accumulator is the only transient register that a shift hands on. -/
theorem shiftInBits_congr (n k : Nat) (hsh : s.sh = s'.sh) (h : scrub s = scrub s') :
    (shiftInBits n k s).sh = (shiftInBits n k s').sh ∧ scrub (shiftInBits n k s) = scrub (shiftInBits n k s') := by
  induction k generalizing s s' with
  | zero => exact ⟨hsh, h⟩
  | succ k ih =>
    obtain ⟨hb, hs⟩ := pulseSample_alike h
    have hacc : accumulate n s.sh (pulseSample s).1 = accumulate n s'.sh (pulseSample s').1 := by rw [hsh, hb]
    exact ih hacc hs

/-- `ShiftIn` starts its accumulator from 0 (40_bit_engine R106). -/
theorem shiftIn_alike (n : Nat) (h : scrub s = scrub s') : Alike (shiftIn n s) (shiftIn n s') := by
  obtain ⟨hsh, hs⟩ := shiftInBits_congr (s := { dly .setup (wr .dsi false s) with sh := 0, nbit := n })
    (s' := { dly .setup (wr .dsi false s') with sh := 0, nbit := n }) n n rfl
    (scrub_field (fun u => dly .setup (wr .dsi false u)) h)
  exact ⟨congrArg (fun sh : BitVec 33 => (⟨n, sh.setWidth n⟩ : BitSeq)) hsh, hs⟩

theorem sendFrame_congr (bs : List BitSeq) (h : scrub s = scrub s') :
    scrub (sendFrame bs s) = scrub (sendFrame bs s') :=
  (sendFrame_spec bs s).scrub_congr (sendFrame_spec bs s') h

theorem pollOnce_alike (w : RespWidth) (h : scrub s = scrub s') : Alike (pollOnce w s) (pollOnce w s') := by
  have hcfg : s.cfg = s'.cfg := scrub_field State.cfg h
  rw [pollOnce, pollOnce, hcfg]
  exact shiftIn_alike _ (sendFrame_congr _ h)

/-- The ceiling is the polls still allowed; `POLLS` counts beside them (42_command_framer R146). -/
theorem pollLoop_alike (w : RespWidth) (left : Nat) {p q : BitSeq × State} (h : Alike p q) :
    Alike (pollLoop w left p) (pollLoop w left q) := by
  induction left generalizing p q with
  | zero =>
    obtain ⟨r, s⟩ := p
    obtain ⟨r', s'⟩ := q
    obtain ⟨rfl, hs⟩ : r = r' ∧ scrub s = scrub s' := h
    unfold pollLoop
    split <;> exact ⟨rfl, hs⟩
  | succ left ih =>
    obtain ⟨r, s⟩ := p
    obtain ⟨r', s'⟩ := q
    obtain ⟨rfl, hs⟩ : r = r' ∧ scrub s = scrub s' := h
    unfold pollLoop
    split
    · exact ih (pollOnce_alike w hs)
    · exact ⟨rfl, hs⟩

theorem recvResponse_alike (w : RespWidth) (h : scrub s = scrub s') : Alike (recvResponse w s) (recvResponse w s') := by
  obtain ⟨hr, hs⟩ := shiftIn_alike (1 + w.bits) h
  have hcfg : (shiftIn (1 + w.bits) s).2.cfg = (shiftIn (1 + w.bits) s').2.cfg := scrub_field State.cfg hs
  rw [recvResponse, recvResponse, hcfg]
  exact pollLoop_alike w _ ⟨hr, hs⟩

/-- A command puts its own word, operands and width in place of what was there (42_command_framer R145). -/
theorem sendCommand_alike (cmd : Command) (h : scrub s = scrub s') : Alike (sendCommand cmd s) (sendCommand cmd s') := by
  have hcfg : s.cfg = s'.cfg := scrub_field State.cfg h
  have hsent : scrub (sendFrame (frame s'.cfg cmd) (stage cmd s)) = scrub (sendFrame (frame s'.cfg cmd) (stage cmd s')) :=
    sendFrame_congr (s := stage cmd s) (s' := stage cmd s') _ h
  rw [sendCommand, sendCommand, hcfg]
  cases responseWidth cmd with
  | none => exact ⟨rfl, hsent⟩
  | some w => exact recvResponse_alike w hsent

theorem runCommand_congr (cmd : Command) (h : scrub s = scrub s') :
    scrub (runCommand cmd s) = scrub (runCommand cmd s') := by
  obtain ⟨hr, hs⟩ := sendCommand_alike cmd h
  rw [runCommand, runCommand, hr]
  exact scrub_field (fun u => { u with framerRet := some (sendCommand cmd s').1 }) hs

/-! #### How an operation uses the framer's answer -/

theorem respond_congr (k : Kind) (c : Cause) (d : Option Word) (h : scrub s = scrub s') :
    scrub (respond k c d s) = scrub (respond k c d s') :=
  scrub_field (respond k c d) h

theorem setTs_congr (x : TargetState) (h : scrub s = scrub s') : scrub (setTs x s) = scrub (setTs x s') :=
  scrub_field (setTs x) h

theorem accept_congr (h : scrub s = scrub s') : scrub (accept s) = scrub (accept s') := scrub_field accept h

theorem readResult_congr {p q : FramerRet × State} (h : Alike p q) : scrub (readResult p) = scrub (readResult q) := by
  obtain ⟨r, t⟩ := p
  obtain ⟨r', t'⟩ := q
  obtain ⟨rfl, hs⟩ : r = r' ∧ scrub t = scrub t' := h
  cases r with
  | data d => exact respond_congr _ _ _ hs
  | timeout => exact respond_congr _ _ _ (setTs_congr _ hs)
  | nothing => exact hs
  | response d => exact hs

theorem writeResult_congr {p q : FramerRet × State} (h : Alike p q) : scrub (writeResult p) = scrub (writeResult q) :=
  respond_congr _ _ _ h.2

theorem enterDebugResult_congr {p q : FramerRet × State} (h : Alike p q) :
    scrub (enterDebugResult p) = scrub (enterDebugResult q) := by
  obtain ⟨r, t⟩ := p
  obtain ⟨r', t'⟩ := q
  obtain ⟨rfl, hs⟩ : r = r' ∧ scrub t = scrub t' := h
  have hcfg : t.cfg = t'.cfg := scrub_field State.cfg hs
  cases r with
  | data d =>
    simp only [enterDebugResult, hcfg]
    split
    · exact respond_congr _ _ _ (setTs_congr _ hs)
    · exact respond_congr _ _ _ hs
  | timeout => exact respond_congr _ _ _ hs
  | nothing => exact hs
  | response d => exact hs

/-- An access looks at its operand and at `TS` before anything else (43_access_layer R160). -/
theorem access_congr (ok : Bool) (bad : Kind) (cmd : Command) {done : FramerRet × State → State}
    (hdone : ∀ {p q}, Alike p q → scrub (done p) = scrub (done q)) (h : scrub s = scrub s') :
    scrub (access ok bad cmd done s) = scrub (access ok bad cmd done s') := by
  have hts : s.ts = s'.ts := scrub_field State.ts h
  simp only [access, hts]
  split
  · split
    · exact hdone (sendCommand_alike cmd h)
    · exact respond_congr _ _ _ h
  · exact respond_congr _ _ _ h

/-! #### SYNC -/

/-- The window and its count are the transient registers that a cycle reads (41_sync_reset R122). -/
theorem huntCycle_congr (hwin : s.win = s'.win) (hcyc : s.cyc = s'.cyc) (h : scrub s = scrub s') :
    (huntCycle s).win = (huntCycle s').win ∧ (huntCycle s).cyc = (huntCycle s').cyc ∧
      scrub (huntCycle s) = scrub (huntCycle s') := by
  obtain ⟨hb, hs⟩ := pulseSample_alike h
  have hcfg : s.cfg = s'.cfg := scrub_field State.cfg h
  have hslide : slide s.cfg.syncResponse.width s.win (pulseSample s).1 =
      slide s'.cfg.syncResponse.width s'.win (pulseSample s').1 := by rw [hcfg, hwin, hb]
  exact ⟨hslide, congrArg (· + 1) hcyc, hs⟩

theorem hunt_alike (left : Nat) (hwin : s.win = s'.win) (hcyc : s.cyc = s'.cyc) (h : scrub s = scrub s') :
    Alike (hunt left s) (hunt left s') := by
  induction left generalizing s s' with
  | zero => exact ⟨rfl, h⟩
  | succ left ih =>
    obtain ⟨hwin', hcyc', hs⟩ := huntCycle_congr hwin hcyc h
    have hcfg : (huntCycle s).cfg = (huntCycle s').cfg := scrub_field State.cfg hs
    have hmatch : windowMatches (huntCycle s) = windowMatches (huntCycle s') := by
      rw [windowMatches, windowMatches, hcfg, hwin', hcyc']
    simp only [hunt, hmatch]
    split
    · exact ⟨rfl, hs⟩
    · exact ih hwin' hcyc' hs

/-- The stimulus empties the window and its count (41_sync_reset R122). -/
theorem hunt_syncStimulus_alike (left : Nat) (h : scrub s = scrub s') :
    Alike (hunt left (syncStimulus s)) (hunt left (syncStimulus s')) := by
  have hcfg : s.cfg = s'.cfg := scrub_field State.cfg h
  have hA := (syncStimulus_spec s).1
  rw [hcfg] at hA
  exact hunt_alike left rfl rfl (hA.scrub_congr (syncStimulus_spec s').1 h)

end Alike

/-! #### Every instruction -/

/-- Both outcomes are next states, and these differ in transient registers only. -/
def AlikeNext (o o' : Host.Outcome State Fault Refusal) : Prop :=
  ∃ t t', o = .next t ∧ o' = .next t' ∧ scrub t = scrub t'

theorem AlikeNext.of_scrub {t t' : State} (h : scrub t = scrub t') : AlikeNext (.next t) (.next t') :=
  ⟨t, t', rfl, rfl, h⟩

section AlikeNext

variable {s s' : State}

theorem execSync_alike (h : scrub s = scrub s') : AlikeNext (execSync s) (execSync s') := by
  have ha := accept_congr h
  have hts : (accept s).ts = (accept s').ts := scrub_field State.ts h
  have hcfg : (accept s).cfg = (accept s').cfg := scrub_field State.cfg h
  obtain ⟨hm, hs⟩ := hunt_syncStimulus_alike (accept s').cfg.syncMaxCycles ha
  simp only [execSync, hts, hcfg, hm]
  split
  · exact .of_scrub (respond_congr _ _ _ ha)
  · split
    · exact .of_scrub (respond_congr _ _ _ (setTs_congr _ hs))
    · exact .of_scrub (respond_congr _ _ _ hs)

theorem execEnterDebug_alike (h : scrub s = scrub s') : AlikeNext (execEnterDebug s) (execEnterDebug s') := by
  have ha := accept_congr h
  have hts : (accept s).ts = (accept s').ts := scrub_field State.ts h
  simp only [execEnterDebug, hts]
  split
  · exact .of_scrub (respond_congr _ _ _ ha)
  · exact .of_scrub (enterDebugResult_congr (sendCommand_alike _ ha))

theorem execCmdPoll_alike (hpend : s.pend = s'.pend) (h : scrub s = scrub s') :
    AlikeNext (execCmdPoll s) (execCmdPoll s') := by
  have htrace : s.trace = s'.trace := scrub_field State.trace h
  have hw : pollWidth s = pollWidth s' := by rw [pollWidth, pollWidth, hpend, htrace]
  obtain ⟨hr, hs⟩ := pollOnce_alike (pollWidth s') h
  simp only [execCmdPoll, hw, hr]
  exact .of_scrub (scrub_field (fun u => { u with framerRet := some (.response (pollOnce (pollWidth s') s').1) }) hs)

theorem exec_alike (i : Instr) (hpend : i = .cmdPoll → s.pend = s'.pend) (h : scrub s = scrub s') :
    AlikeNext (exec i s) (exec i s') := by
  have hcfg : s.cfg = s'.cfg := scrub_field State.cfg h
  have read ok bad cmd := AlikeNext.of_scrub (access_congr ok bad cmd readResult_congr (accept_congr h))
  have write ok bad cmd := AlikeNext.of_scrub (access_congr ok bad cmd writeResult_congr (accept_congr h))
  have command cmd := AlikeNext.of_scrub (runCommand_congr cmd h)
  cases i with
  | resetTarget =>
    exact .of_scrub (scrub_field (fun u => returnOk none (setTs .reset (dly .resetSettle (releaseLine .reset
      (dly .resetHold (assertLine .reset (accept u))))))) h)
  | sync => exact execSync_alike h
  | enterDebug => exact execEnterDebug_alike h
  | readMem32 a => exact read _ _ _
  | writeMem32 a d => exact write _ _ _
  | readReg r => simp only [exec, execReadReg, hcfg]; exact read _ _ _
  | writeReg r d => simp only [exec, execWriteReg, hcfg]; exact write _ _ _
  | disconnect => exact .of_scrub (respond_congr _ _ _ (setTs_congr _ (accept_congr h)))
  | cmdReadMem32 a => exact command _
  | cmdWriteMem32 a d => exact command _
  | cmdReadReg r => exact command _
  | cmdWriteReg r d => exact command _
  | cmdEnterDebug => exact command _
  | cmdPoll => exact execCmdPoll_alike (hpend rfl) h

end AlikeNext

/-- Settles O40: each rule writes a transient register before it reads it, so `exec` relates alike states. -/
theorem transientsAreUnobservable : Obligations.TransientsAreUnobservable := by
  unfold Obligations.TransientsAreUnobservable
  intro i s s' hpend h
  exact exec_alike i hpend h

end Sys2Proof.Machine

/-! ### How each instruction ends, and on which lines -/

namespace Sys2Proof.Machine

/-- What instruction `i` may emit: BKPT is SYNC's, RESET is RESET_TARGET's, DIR is nobody's (10_state R25,
41_sync_reset R120, R124). -/
def mayEmit (i : Instr) : Event → Prop
  | .wr .bkpt _ => i = .sync
  | .wr .reset _ => i = .resetTarget
  | .dir _ _ => False
  | .wr .dsi _ => True
  | .wr .dsclk _ => True
  | .rd _ => True
  | .dly _ => True

/-- Events that instruction `i` may emit, every one. -/
def Within (i : Instr) (es : List Event) : Prop := ∀ e ∈ es, mayEmit i e

section Within

variable {i : Instr}

theorem Within.nil : Within i [] := by simp [Within]

theorem Within.append {es fs : List Event} (h : Within i es) (g : Within i fs) : Within i (es ++ fs) :=
  List.forall_mem_append.2 ⟨h, g⟩

theorem Within.flatMap {α : Type} {f : α → List Event} (h : ∀ a, Within i (f a)) (l : List α) :
    Within i (l.flatMap f) := by
  intro e he
  obtain ⟨a, -, ha⟩ := List.mem_flatMap.1 he
  exact h a e ha

theorem within_bitEvents (b : Bool) : Within i (bitEvents b) := by simp [Within, bitEvents, pulseEvents, mayEmit]

theorem within_sampleEvents (b : Bool) : Within i (sampleEvents b) := by simp [Within, sampleEvents, mayEmit]

theorem within_holdDsi : Within i [.wr .dsi false, .dly .setup] := by simp [Within, mayEmit]

theorem within_shiftOutEvents (b : BitSeq) : Within i (shiftOutEvents b) := .flatMap within_bitEvents _

theorem within_shiftInEvents (bits : List Bool) : Within i (shiftInEvents bits) :=
  within_holdDsi.append (.flatMap within_sampleEvents _)

theorem within_frameEvents (c : Config) (cmd : Command) : Within i (frameEvents c cmd) :=
  .flatMap within_shiftOutEvents _

theorem within_responseEvents (c : Config) (w : RespWidth) (left : Nat) (bits : List Bool) :
    Within i (responseEvents c w left bits) := by
  induction left generalizing bits with
  | zero => exact within_shiftInEvents _
  | succ left ih =>
    refine (within_shiftInEvents _).append ?_
    split
    · exact (within_frameEvents c .poll).append (ih _)
    · exact .nil

end Within

/-- `t` is `s` after events that `i` may emit, as far as anyone outside can see. -/
def EmitsOwn (i : Instr) (s t : State) : Prop := ∃ es, Within i es ∧ After es s t

section EmitsOwn

variable {i : Instr}

theorem EmitsOwn.refl (s : State) : EmitsOwn i s s := ⟨[], .nil, After.refl s⟩

theorem EmitsOwn.trans {s t u : State} (h : EmitsOwn i s t) (g : EmitsOwn i t u) : EmitsOwn i s u := by
  obtain ⟨es, hes, hA⟩ := h
  obtain ⟨fs, hfs, gA⟩ := g
  exact ⟨es ++ fs, hes.append hfs, hA.trans gA⟩

theorem sendCommand_emitsOwn (cmd : Command) (s : State) : EmitsOwn i s (sendCommand cmd s).2 := by
  cases hw : responseWidth cmd with
  | none =>
    obtain ⟨-, hA⟩ := sendCommand_write cmd hw s
    exact ⟨_, within_frameEvents _ _, hA⟩
  | some w =>
    obtain ⟨bits, -, hA, -⟩ := sendCommand_read cmd w hw s
    exact ⟨_, (within_frameEvents _ _).append (within_responseEvents _ _ _ _), hA⟩

theorem hunt_emitsOwn (left : Nat) (s : State) : EmitsOwn i s (hunt left s).2 := by
  induction left generalizing s with
  | zero => exact .refl s
  | succ left ih =>
    obtain ⟨b, hA, -⟩ := huntCycle_spec s
    have hcycle : EmitsOwn i s (huntCycle s) := ⟨_, within_sampleEvents b, hA⟩
    simp only [hunt]
    split
    · exact hcycle
    · exact hcycle.trans (ih _)

theorem syncStimulus_emitsOwn (s : State) : EmitsOwn .sync s (syncStimulus s) := by
  have hpulse : Within .sync [.wr .bkpt s.cfg.bkptActive, .dly .bkptHold, .wr .bkpt (!s.cfg.bkptActive)] := by
    simp [Within, mayEmit]
  exact ⟨_, (hpulse.append (within_shiftOutEvents _)).append within_holdDsi, (syncStimulus_spec s).1⟩

theorem within_resetTargetEvents (c : Config) : Within .resetTarget (resetTargetEvents c) := by
  simp [Within, resetTargetEvents, mayEmit]

/-- What the events do not touch: all but levels, trace, answers and transient registers. -/
theorem EmitsOwn.frame {s t : State} (h : EmitsOwn i s t) :
    t.ts = s.ts ∧ t.cfg = s.cfg ∧ t.framerRet = s.framerRet ∧ t.inbox = s.inbox ∧ t.hostSees = s.hostSees ∧
      t.others = s.others := by
  obtain ⟨es, -, hA⟩ := h
  have field {α : Type} (f : State → α) : f (scrub t) = f (emits es (scrub s)) := congrArg f hA
  exact ⟨(field State.ts).trans (emits_ts ..), hA.cfg_eq, (field State.framerRet).trans (emits_framerRet ..),
    (field State.inbox).trans (emits_inbox ..), (field State.hostSees).trans (emits_hostSees ..),
    (field State.others).trans (emits_others ..)⟩

end EmitsOwn

/-! #### The responses -/

/-- The two reads. -/
def IsRead (i : Instr) : Prop := (∃ a, i = .readMem32 a) ∨ (∃ r, i = .readReg r)

/-- The two writes. -/
def IsWrite (i : Instr) : Prop := (∃ a d, i = .writeMem32 a d) ∨ (∃ r d, i = .writeReg r d)

/-- The responses an operation can give from a `TS`, and the `TS` it leaves: 10_state R23 and 60_exceptions R182 in one
table, with the data of 10_state R30. -/
inductive Responds (before : TargetState) : Instr → TargetState → Kind → Cause → Option Word → Prop
  | resetTarget : Responds before .resetTarget .reset .ok .none none
  | disconnect : Responds before .disconnect .unknown .ok .none none
  | syncInWrongState (h : before ≠ .reset) : Responds before .sync before .stateError .none none
  | synchronized (h : before = .reset) : Responds before .sync .synchronized .ok .none none
  | notSynchronized (h : before = .reset) : Responds before .sync before .synchronizationError .none none
  | enterInWrongState (h : before ≠ .synchronized) : Responds before .enterDebug before .stateError .none none
  | entered (h : before = .synchronized) : Responds before .enterDebug .debugMode .ok .none none
  | refused (h : before = .synchronized) (v : BitVec 16) :
      Responds before .enterDebug before .debugModeEntryError .refused (some (v.setWidth 32))
  | entryTimeout (h : before = .synchronized) :
      Responds before .enterDebug before .debugModeEntryError .commandTimeout none
  | misaligned {i : Instr} (hi : (∃ a, i = .readMem32 a) ∨ (∃ a d, i = .writeMem32 a d)) :
      Responds before i before .alignmentError .none none
  | noRegister {i : Instr} (hi : (∃ r, i = .readReg r) ∨ (∃ r d, i = .writeReg r d)) :
      Responds before i before .invalidRegisterError .none none
  | accessInWrongState {i : Instr} (hi : IsRead i ∨ IsWrite i) (h : before ≠ .debugMode) :
      Responds before i before .memoryAccessError .stateError none
  | written {i : Instr} (hi : IsWrite i) (h : before = .debugMode) : Responds before i before .ok .none none
  | read {i : Instr} (hi : IsRead i) (h : before = .debugMode) (v : Word) : Responds before i before .ok .none (some v)
  | readTimeout {i : Instr} (hi : IsRead i) (h : before = .debugMode) :
      Responds before i .unknown .memoryAccessError .commandTimeout none

/-- How instruction `i` that started in `s` ends: an operation with one of its responses, or a command run by itself
with what the framer returns; either way with no event but its own. -/
inductive Concludes (i : Instr) (s : State) : State → Prop
  | responded {u : State} {x : TargetState} {k : Kind} {c : Cause} {d : Option Word} (hrun : EmitsOwn i (accept s) u)
      (hresp : Responds s.ts i x k c d) : Concludes i s (respond k c d (setTs x u))
  | returned {u : State} (r : FramerRet) (hcmd : isHostOp i = false) (hrun : EmitsOwn i s u) :
      Concludes i s { u with framerRet := some r }

/-- A response with `TS` as it was. -/
theorem Concludes.respondedSame {i : Instr} {s u : State} {k : Kind} {c : Cause} {d : Option Word}
    (hrun : EmitsOwn i (accept s) u) (hresp : Responds s.ts i s.ts k c d) : Concludes i s (respond k c d u) := by
  have hts : u.ts = s.ts := hrun.frame.1
  exact .responded (x := u.ts) hrun (hts.symm ▸ hresp)

section Concludes

variable {i : Instr} {s t : State}

/-- An access concludes with its operand error, its state error, or what `done` makes of the command (43_access_layer
R160). -/
theorem access_concludes {bad : Kind} (hbad : Responds s.ts i s.ts bad .none none) (hi : IsRead i ∨ IsWrite i)
    (ok : Bool) (cmd : Command) (done : FramerRet × State → State)
    (hdone : s.ts = .debugMode → Concludes i s (done (sendCommand cmd (accept s)))) :
    Concludes i s (access ok bad cmd done (accept s)) := by
  rcases access_cases ok bad cmd done (accept s) with ⟨-, h⟩ | ⟨-, hts, h⟩ | ⟨-, hts, h⟩ <;> rw [h]
  · exact .respondedSame (.refl _) hbad
  · exact .respondedSame (.refl _) (.accessInWrongState hi hts)
  · exact hdone hts

theorem readResult_concludes (hi : IsRead i) {cmd : Command} {w : RespWidth} (hw : responseWidth cmd = some w)
    (hts : s.ts = .debugMode) : Concludes i s (readResult (sendCommand cmd (accept s))) := by
  have hrun : EmitsOwn i (accept s) (sendCommand cmd (accept s)).2 := sendCommand_emitsOwn cmd (accept s)
  obtain ⟨-, hans⟩ := sendCommand_runs cmd (accept s)
  unfold readResult
  rcases hans w hw with h | ⟨v, h⟩ <;> rw [h]
  · exact .responded hrun (.readTimeout hi hts)
  · exact .respondedSame hrun (.read hi hts _)

theorem writeResult_concludes (hi : IsWrite i) (cmd : Command) (hts : s.ts = .debugMode) :
    Concludes i s (writeResult (sendCommand cmd (accept s))) :=
  .respondedSame (sendCommand_emitsOwn cmd (accept s)) (.written hi hts)

theorem readAccess_concludes (hi : IsRead i) {bad : Kind} (hbad : Responds s.ts i s.ts bad .none none) (ok : Bool)
    {cmd : Command} {w : RespWidth} (hw : responseWidth cmd = some w) :
    Concludes i s (access ok bad cmd readResult (accept s)) :=
  access_concludes hbad (.inl hi) ok cmd readResult (readResult_concludes hi hw)

theorem writeAccess_concludes (hi : IsWrite i) {bad : Kind} (hbad : Responds s.ts i s.ts bad .none none) (ok : Bool)
    (cmd : Command) : Concludes i s (access ok bad cmd writeResult (accept s)) :=
  access_concludes hbad (.inr hi) ok cmd writeResult (writeResult_concludes hi cmd)

theorem execEnterDebug_concludes (h : execEnterDebug s = .next t) : Concludes .enterDebug s t := by
  have hrun : EmitsOwn .enterDebug (accept s) (sendCommand .enterDebug (accept s)).2 := sendCommand_emitsOwn _ _
  obtain ⟨-, hans⟩ := sendCommand_runs .enterDebug (accept s)
  simp only [execEnterDebug] at h
  split at h <;> cases h
  next hts => exact .respondedSame (.refl _) (.enterInWrongState hts)
  next hts =>
    have hsync : s.ts = .synchronized := not_not.1 hts
    unfold enterDebugResult
    rcases hans .w16 rfl with h | ⟨v, h⟩ <;> rw [h]
    · exact .respondedSame hrun (.entryTimeout hsync)
    · dsimp only
      split
      · exact .responded hrun (.entered hsync)
      · exact .respondedSame hrun (.refused hsync v)

theorem execSync_concludes (h : execSync s = .next t) : Concludes .sync s t := by
  have hrun : EmitsOwn .sync (accept s) (hunt (accept s).cfg.syncMaxCycles (syncStimulus (accept s))).2 :=
    (syncStimulus_emitsOwn _).trans (hunt_emitsOwn _ _)
  simp only [execSync] at h
  split at h
  next hts => cases h; exact .respondedSame (.refl _) (.syncInWrongState hts)
  next hts =>
    have hreset : s.ts = .reset := not_not.1 hts
    split at h <;> cases h
    · exact .responded hrun (.synchronized hreset)
    · exact .respondedSame hrun (.notSynchronized hreset)

theorem runCommand_concludes (hi : isHostOp i = false) {cmd : Command}
    (h : (.next (runCommand cmd s) : Host.Outcome State Fault Refusal) = .next t) : Concludes i s t := by
  rw [← Host.Outcome.next.inj h]
  exact .returned _ hi (sendCommand_emitsOwn cmd s)

theorem execCmdPoll_concludes (h : execCmdPoll s = .next t) : Concludes .cmdPoll s t := by
  cases h
  obtain ⟨bits, -, -, hA, -⟩ := pollOnce_spec (pollWidth s) s
  exact .returned _ rfl ⟨_, (within_frameEvents _ _).append (within_shiftInEvents _), hA⟩

/-- Everything instruction `i` can do. -/
theorem exec_concludes (h : exec i s = .next t) : Concludes i s t := by
  cases i with
  | resetTarget => cases h; exact .responded ⟨_, within_resetTargetEvents _, After.of_emits rfl⟩ .resetTarget
  | sync => exact execSync_concludes h
  | enterDebug => exact execEnterDebug_concludes h
  | readMem32 a => cases h; exact readAccess_concludes (.inl ⟨a, rfl⟩) (.misaligned (.inl ⟨a, rfl⟩)) _ rfl
  | writeMem32 a d => cases h; exact writeAccess_concludes (.inl ⟨a, d, rfl⟩) (.misaligned (.inr ⟨a, d, rfl⟩)) _ _
  | readReg r => cases h; exact readAccess_concludes (.inr ⟨r, rfl⟩) (.noRegister (.inl ⟨r, rfl⟩)) _ rfl
  | writeReg r d => cases h; exact writeAccess_concludes (.inr ⟨r, d, rfl⟩) (.noRegister (.inr ⟨r, d, rfl⟩)) _ _
  | disconnect => cases h; exact .responded (.refl _) .disconnect
  | cmdReadMem32 a => exact runCommand_concludes rfl h
  | cmdWriteMem32 a d => exact runCommand_concludes rfl h
  | cmdReadReg r => exact runCommand_concludes rfl h
  | cmdWriteReg r d => exact runCommand_concludes rfl h
  | cmdEnterDebug => exact runCommand_concludes rfl h
  | cmdPoll => exact execCmdPoll_concludes h

end Concludes

/-! #### `TS` -/

/-- Each response moves `TS` as 10_state R23 says. -/
theorem Responds.moves {before x : TargetState} {i : Instr} {k : Kind} {c : Cause} {d : Option Word}
    (h : Responds before i x k c d) : tsMove i before (some k.code) (some c.code) x := by
  cases h with
  | resetTarget | disconnect => exact rfl
  | synchronized h | entered h => simp [tsMove, h]
  | syncInWrongState | notSynchronized | enterInWrongState | refused | entryTimeout => simp [tsMove, Kind.code]
  | misaligned hi => rcases hi with ⟨a, rfl⟩ | ⟨a, d, rfl⟩ <;> simp [tsMove, Kind.code]
  | noRegister hi => rcases hi with ⟨r, rfl⟩ | ⟨r, d, rfl⟩ <;> simp [tsMove, Kind.code]
  | accessInWrongState hi h =>
    rcases hi with (⟨a, rfl⟩ | ⟨r, rfl⟩) | (⟨a, d, rfl⟩ | ⟨r, d, rfl⟩) <;> simp [tsMove, Cause.code]
  | written hi h => rcases hi with ⟨a, d, rfl⟩ | ⟨r, d, rfl⟩ <;> exact rfl
  | read hi h v => rcases hi with ⟨a, rfl⟩ | ⟨r, rfl⟩ <;> simp [tsMove, Kind.code]
  | readTimeout hi h => rcases hi with ⟨a, rfl⟩ | ⟨r, rfl⟩ <;> simp [tsMove, h]

/-- A command run by itself has no row in the table of moves (42_command_framer R140). -/
theorem tsMove_command {i : Instr} (hi : isHostOp i = false) {before after : TargetState}
    {kind cause : Option (BitVec 4)} : tsMove i before kind cause after ↔ after = before := by
  revert hi
  cases i <;> simp [isHostOp, tsMove]

/-- Settles O33: for the instructions row by row of `Responds`, for the other inputs by what their ports do. -/
theorem tsMovesOnlyByTheTable : Obligations.TsMovesOnlyByTheTable := by
  unfold Obligations.TsMovesOnlyByTheTable
  refine ⟨?instruction, fun c s => rfl, ?port⟩
  case instruction =>
    intro i s t h
    cases exec_concludes h with
    | responded hrun hresp => exact hresp.moves
    | returned r hcmd hrun => exact (tsMove_command hcmd).2 hrun.frame.1
  case port =>
    rintro s t rest (⟨p, hin⟩ | ⟨m, hin⟩) h <;> rw [step_of_inbox hin] at h
    · obtain ⟨v, -, rfl⟩ := serveRead_next h
      rfl
    · obtain ⟨-, -, rfl⟩ := serveAttach_next.1 h
      rfl

/-! #### Lines -/

theorem Concludes.within {i : Instr} {s t : State} (h : Concludes i s t) : Within i (opTrace s t) := by
  cases h with
  | @responded u x k c d hrun _ =>
    obtain ⟨es, hes, hA⟩ := hrun
    have ht : opTrace s (respond k c d (setTs x u)) = es := hA.opTrace_eq
    rwa [ht]
  | @returned u r _ hrun =>
    obtain ⟨es, hes, hA⟩ := hrun
    have ht : opTrace s { u with framerRet := some r } = es := hA.opTrace_eq
    rwa [ht]

/-- Settles O34: each event of the instruction is one that it may emit. -/
theorem controlLinesHaveOneWriter : Obligations.ControlLinesHaveOneWriter := by
  unfold Obligations.ControlLinesHaveOneWriter
  intro i s t h
  have hes : Within i (opTrace s t) := (exec_concludes h).within
  exact ⟨fun hi b hb => hi (hes _ hb), fun hi b hb => hi (hes _ hb), fun p d hd => hes _ hd⟩

/-- Events without a DIR leave the directions (10_state R25). -/
theorem emits_directions {es : List Event} (h : ∀ p d, Event.dir p d ∉ es) (s : State) :
    (emits es s).dirDsi = s.dirDsi ∧ (emits es s).dirDso = s.dirDso ∧ (emits es s).dirDsclk = s.dirDsclk ∧
      (emits es s).dirBkpt = s.dirBkpt ∧ (emits es s).dirReset = s.dirReset := by
  induction es generalizing s with
  | nil => exact ⟨rfl, rfl, rfl, rfl, rfl⟩
  | cons e es ih =>
    have hes := ih (fun p d hd => h p d (List.mem_cons_of_mem e hd)) (emit e s)
    cases e with
    | dir p d => exact absurd List.mem_cons_self (h p d)
    | wr q b => exact hes
    | rd b => exact hes
    | dly k => exact hes

/-- The latch of a control line, by the line. -/
def latch (s : State) : OutLine → Bool
  | .dsi => s.lvDsi
  | .dsclk => s.lvDsclk
  | .bkpt => s.lvBkpt
  | .reset => s.lvReset

theorem latch_emit (e : Event) (s : State) (p : OutLine) : latch (emit e s) p = levelAfter e p (latch s p) := by
  cases p <;> rfl

/-- A line that no event writes holds its level (10_state R24). -/
theorem emits_latch {p : OutLine} {es : List Event} (h : ∀ b, Event.wr p b ∉ es) (s : State) :
    latch (emits es s) p = latch s p := by
  induction es generalizing s with
  | nil => rfl
  | cons e es ih =>
    have hes := ih (fun b hb => h b (List.mem_cons_of_mem e hb)) (emit e s)
    have he : levelAfter e p (latch s p) = latch s p := by
      cases e with
      | wr q b => exact if_neg (fun hq : q = p => h b (hq ▸ List.mem_cons_self))
      | dir q d => rfl
      | rd b => rfl
      | dly k => rfl
    rw [emits_cons, hes, latch_emit, he]

/-! #### RESULT -/

/-- Each response is one that `RESULT` may hold (60_exceptions R182). -/
theorem Responds.legal {before x : TargetState} {i : Instr} {k : Kind} {c : Cause} {d : Option Word}
    (h : Responds before i x k c d) : resultLegal (some k.code) (some c.code) d := by
  cases h with
  | resetTarget | disconnect | synchronized | entered | written | read => exact resultLegal_ok _
  | syncInWrongState | notSynchronized | enterInWrongState | misaligned | noRegister =>
    exact resultLegal_error (.inl ⟨rfl, by decide⟩)
  | entryTimeout | readTimeout => exact resultLegal_error (.inr (.inl ⟨rfl, by decide⟩))
  | accessInWrongState => exact resultLegal_error (.inr (.inr ⟨rfl, rfl⟩))
  | refused h v => exact resultLegal_refused v

theorem exec_next (i : Instr) (s : State) : ∃ t, exec i s = .next t := by
  obtain ⟨t, h, -⟩ := exec_retime s.cfg i s
  exact ⟨t, h⟩

/-- A host operation ends with a response. -/
theorem hostOp_responds {i : Instr} {s t : State} (hi : isHostOp i = true) (h : exec i s = .next t) :
    ∃ u x k c d, EmitsOwn i (accept s) u ∧ Responds s.ts i x k c d ∧ t = respond k c d (setTs x u) := by
  cases exec_concludes h with
  | responded hrun hresp => exact ⟨_, _, _, _, _, hrun, hresp, rfl⟩
  | returned r hcmd hrun => rw [hi] at hcmd; cases hcmd

/-- Settles O36: the response from `Responds`, the lines from the events (O34) and what these make of them (O38). -/
theorem everyHostOperationEnds : Obligations.EveryHostOperationEnds := by
  unfold Obligations.EveryHostOperationEnds
  intro i s hi
  obtain ⟨t, h⟩ := exec_next i s
  obtain ⟨hbkpt, hreset, hdir⟩ := controlLinesHaveOneWriter i s t h
  obtain ⟨-, -, -, -, hB, hR, hd1, hd2, hd3, hd4, hd5⟩ := pinsFollowTheTrace i s t h
  obtain ⟨e1, e2, e3, e4, e5⟩ := emits_directions hdir s
  obtain ⟨u, x, k, c, d, hrun, hresp, rfl⟩ := hostOp_responds hi h
  obtain ⟨-, hcfg, hret, hin, hsees, hothers⟩ := hrun.frame
  exact ⟨_, h, rfl, rfl, rfl, hresp.legal, hcfg, hret, hin, hsees, hothers, hd1.trans e1, hd2.trans e2, hd3.trans e3,
    hd4.trans e4, hd5.trans e5, fun hne => hB.trans (emits_latch (p := .bkpt) (hbkpt hne) s),
    fun hne => hR.trans (emits_latch (p := .reset) (hreset hne) s)⟩

/-- Data comes with a read that ends OK and with a refusal, and with nothing else (10_state R30). -/
theorem Responds.data_iff {before x : TargetState} {i : Instr} {k : Kind} {c : Cause} {d : Option Word}
    (h : Responds before i x k c d) :
    d.isSome ↔ (IsRead i ∧ k.code = 0) ∨ (i = .enterDebug ∧ k.code = 2 ∧ c.code = 8) := by
  cases h with
  | resetTarget | disconnect | syncInWrongState | synchronized | notSynchronized => simp [IsRead]
  | enterInWrongState | entered | entryTimeout => simp [IsRead, Kind.code, Cause.code]
  | misaligned | noRegister | accessInWrongState | readTimeout => simp [Kind.code]
  | written hi h => rcases hi with ⟨a, d, rfl⟩ | ⟨r, d, rfl⟩ <;> simp [IsRead]
  | refused h v => simp [Kind.code, Cause.code]
  | read hi h v => simp [hi, Kind.code]

/-- Settles O37, response by response. -/
theorem dataOnlyAfterReadsAndRefusals : Obligations.DataOnlyAfterReadsAndRefusals := by
  unfold Obligations.DataOnlyAfterReadsAndRefusals
  intro i s t hi h
  obtain ⟨u, x, k, c, d, -, hresp, rfl⟩ := hostOp_responds hi h
  simpa [IsRead] using hresp.data_iff

end Sys2Proof.Machine

/-! ### What is visible while something runs -/

namespace Sys2Proof.Machine

section Midway

variable {s t : State}

theorem midway_busy {n : Nat} (h : n ≤ (opTrace s t).length) : (midway n s t).busy = true := by
  rw [midway_running h]

/-- `TS` keeps its value while something runs (10_state R23; assumption log, entry 10). -/
theorem midway_ts {n : Nat} (h : n ≤ (opTrace s t).length) : (midway n s t).ts = s.ts := by
  rw [midway_running h]
  exact emits_ts _ s

theorem midway_others (h : t.others = s.others) (n : Nat) : (midway n s t).others = s.others := by
  unfold midway
  split
  · exact emits_others _ s
  · exact h

theorem midway_inbox (h : t.inbox = s.inbox) (n : Nat) : (midway n s t).inbox = s.inbox := by
  unfold midway
  split
  · exact emits_inbox _ s
  · exact h

/-- So many of the events are in the trace; all of them once it is over. -/
theorem midway_trace {es : List Event} (h : t.trace = es.reverse ++ s.trace) (n : Nat) :
    (midway n s t).trace = (es.take n).reverse ++ s.trace := by
  have hes : opTrace s t = es := opTrace_of_trace h
  rcases Nat.lt_or_ge es.length n with hn | hn
  · rw [midway_over (hes ▸ hn), h, List.take_of_length_le hn.le]
  · rw [midway_running (hes ▸ hn), hes]
    exact emits_trace _ s

theorem midway_sees (n : Nat) (vs : List Word) : midway n (sees vs s) (sees vs t) = sees vs (midway n s t) := by
  unfold midway
  simp only [opTrace_sees, emits_sees]
  split <;> rfl

/-! #### A polling host -/

theorem hostValue_sees (p : HostPort) (vs : List Word) (u : State) : hostValue p (sees vs u) = hostValue p u := by
  cases p <;> rfl

/-- An output with a value both while `s` leads to `t` and after it: any number of reads give these, and `t` is reached
as without them (10_state R36). -/
theorem along_polls {p : HostPort} {running ended : Word}
    (hr : ∀ n ≤ (opTrace s t).length, hostValue p (midway n s t) = .inl running) (ho : hostValue p t = .inl ended)
    (gaps : List Nat) :
    along (readsOf p gaps) 0 s t =
      .next { t with hostSees := seen (opTrace s t).length running ended gaps t.hostSees } := by
  have hr' : ∀ n ≤ (opTrace s t).length, ∀ vs, hostValue p (midway n (sees vs s) (sees vs t)) = .inl running := by
    intro n hn vs
    rw [midway_sees, hostValue_sees, hr n hn]
  have ho' : ∀ vs, hostValue p (sees vs t) = .inl ended := fun vs => (hostValue_sees p vs t).trans ho
  have hreads := along_reads p running ended s t hr' ho' gaps [] 0 []
  rw [List.append_nil, List.append_nil] at hreads
  exact hreads

theorem along_polls_busy (ht : t.busy = false) (gaps : List Nat) :
    along (readsOf .busy gaps) 0 s t = .next { t with hostSees := seen (opTrace s t).length 1 0 gaps t.hostSees } := by
  refine along_polls (fun n hn => ?_) ?_ gaps
  · rw [hostValue, midway_busy hn]; rfl
  · rw [hostValue, ht]; rfl

theorem along_polls_ts (gaps : List Nat) :
    along (readsOf .ts gaps) 0 s t =
      .next { t with
        hostSees := seen (opTrace s t).length (s.ts.code.setWidth 32) (t.ts.code.setWidth 32) gaps t.hostSees } := by
  refine along_polls (fun n hn => ?_) rfl gaps
  rw [hostValue, midway_ts hn]

end Midway

/-! #### A request, and what happens while it runs -/

/-- A request decodes to a host operation (30_encoding R88). -/
theorem decodeRequest_isHostOp {r : Request} {i : Instr} {bits : List Bool} (h : decodeRequest r = .instr i bits) :
    isHostOp i = true := by
  unfold decodeRequest at h
  split at h <;> cases h <;> rfl

theorem serveRequest_of_decode {s : State} {r : Request} {i : Instr} {bits : List Bool} (hb : s.busy = false)
    (h : decodeRequest r = .instr i bits) : serveRequest r s = exec i s := by
  simp [serveRequest, hb, h]

/-- The step of a request that runs to `u`, with happenings. -/
theorem step_requestDuring {s u : State} {r : Request} {i : Instr} {bits : List Bool} {l : List Happening}
    {rest : List Input} (hb : s.busy = false) (hd : decodeRequest r = .instr i bits)
    (hu : exec i { s with inbox := rest } = .next u) (hin : s.inbox = .requestDuring r l :: rest) :
    step s = along l 0 { s with inbox := rest } u := by
  have hserve : serveRequest r { s with inbox := rest } = .next u :=
    (serveRequest_of_decode (s := { s with inbox := rest }) hb hd).trans hu
  rw [step_of_inbox hin, serve, hserve, andThen_next]

/-- The step of engine reset with happenings. -/
theorem step_resetDuring {s : State} {c : Config} {l : List Happening} {rest : List Input} (hc : c.wf = true)
    (ho : ∀ m ∈ s.others, m.shares c.pinmap = false) (hin : s.inbox = .resetDuring c l :: rest) :
    step s = along l 0 (resetStart c { s with inbox := rest }) (engineReset c { s with inbox := rest }) := by
  have hserve : serveReset c { s with inbox := rest } = .next (engineReset c { s with inbox := rest }) :=
    serveReset_next.2 ⟨hc, ho, rfl⟩
  rw [step_of_inbox hin, serve, hserve, andThen_next]

/-- Settles O46: `BUSY` and `TS` have a value at every moment, so any number of reads is answered and changes nothing. -/
theorem busyIsSeenDuringAnOperation : Obligations.BusyIsSeenDuringAnOperation := by
  unfold Obligations.BusyIsSeenDuringAnOperation
  intro s u r gaps i bits rest hb hd hu
  obtain ⟨v, x, k, c, d, hrun, -, hresp⟩ := hostOp_responds (decodeRequest_isHostOp hd) hu
  obtain ⟨-, -, -, -, hframe, -⟩ := hrun.frame
  have hbusy : u.busy = false := by rw [hresp]; rfl
  have hsees : u.hostSees = s.hostSees := by rw [hresp]; exact hframe
  constructor <;> intro hin <;> rw [step_requestDuring hb hd hu hin]
  · rw [along_polls_busy hbusy, hsees]; rfl
  · rw [along_polls_ts, hsees]; rfl

/-- Settles O57: as for an operation, the sequence having nine events. -/
theorem busyIsSeenDuringEngineReset : Obligations.BusyIsSeenDuringEngineReset := by
  unfold Obligations.BusyIsSeenDuringEngineReset
  intro s c gaps rest hc ho
  have hnine : (opTrace (resetStart c { s with inbox := rest }) (engineReset c { s with inbox := rest })).length = 9 := by
    rw [opTrace_resetStart]; rfl
  constructor <;> intro hin <;> rw [step_resetDuring hc ho hin]
  · rw [along_polls_busy rfl, hnine]; rfl
  · rw [along_polls_ts, hnine]; rfl

/-! #### Requests at a busy engine -/

theorem serveRequest_of_busy {s : State} (h : s.busy = true) (r : Request) :
    serveRequest r s = .fault .requestWhileBusy := by
  rw [serveRequest, if_pos h]

/-- A request that comes before the end finds the engine busy (70_reset_and_hazards R206). -/
theorem along_request_running {s t : State} {n : Nat} (h : n ≤ (opTrace s t).length) (r : Request)
    (l : List Happening) : along (⟨n, .request r⟩ :: l) 0 s t = .fault .requestWhileBusy := by
  have hbusy : (midway (0 + n) s t).busy = true := by rw [Nat.zero_add]; exact midway_busy h
  simp only [along, serveRequest_of_busy hbusy, andThen_fault]

/-- Settles O47: at the port, and while an operation or the engine reset sequence runs. -/
theorem requestWhileBusyHasNoMove : Obligations.RequestWhileBusyHasNoMove := by
  unfold Obligations.RequestWhileBusyHasNoMove
  refine ⟨?port, ?operation, ?reset⟩
  case port =>
    intro s r rest hb hin
    rw [step_of_inbox hin]
    exact serveRequest_of_busy (s := { s with inbox := rest }) hb r
  case operation =>
    intro s u r r' n i bits l rest hb hd hu hn hin
    rw [step_requestDuring hb hd hu hin]
    exact along_request_running (s := { s with inbox := rest }) hn r' l
  case reset =>
    intro s r n c l rest hc ho hn hin
    rw [step_resetDuring hc ho hin]
    refine along_request_running ?_ r l
    rw [opTrace_resetStart]
    exact hn

/-! #### Engine reset -/

/-- Settles O43: the port takes the configuration, and `engineReset` writes each field. -/
theorem engineResetLeavesRuleR37 : Obligations.EngineResetLeavesRuleR37 := by
  unfold Obligations.EngineResetLeavesRuleR37
  intro s c rest hc ho hin
  have hserve : serveReset c { s with inbox := rest } = .next (engineReset c { s with inbox := rest }) :=
    serveReset_next.2 ⟨hc, ho, rfl⟩
  refine ⟨engineReset c { s with inbox := rest }, (step_of_inbox hin).trans hserve, ?_⟩
  exact ⟨rfl, rfl, rfl, rfl, rfl, rfl, rfl, rfl, rfl, rfl, rfl, rfl, rfl, rfl, rfl, rfl, rfl, rfl, rfl,
    opTrace_engineReset c { s with inbox := rest }⟩

/-- Engine reset cuts what runs short: it starts from the events so far (70_reset_and_hazards R200, R207). -/
theorem along_engineReset {s t : State} {c : Config} (hc : c.wf = true)
    (ho : ∀ m ∈ s.others, m.shares c.pinmap = false) (hst : t.others = s.others) (n : Nat) :
    along [⟨n, .engineReset c⟩] 0 s t = .next (engineReset c (midway n s t)) := by
  have hserve : serveReset c (midway n s t) = .next (engineReset c (midway n s t)) :=
    serveReset_next.2 ⟨hc, (midway_others hst n).symm ▸ ho, rfl⟩
  simp only [along, Nat.zero_add, hserve, andThen_next]

theorem engineReset_inbox (c : Config) (s : State) : (engineReset c s).inbox = s.inbox := rfl

theorem midway_engineReset_trace (c : Config) (n : Nat) (s : State) :
    (midway n (resetStart c s) (engineReset c s)).trace = ((resetEvents c).take n).reverse ++ s.trace :=
  midway_trace (s := resetStart c s) (engineReset_trace c s) n

theorem midway_engineReset_inbox (c : Config) (n : Nat) (s : State) :
    (midway n (resetStart c s) (engineReset c s)).inbox = s.inbox :=
  midway_inbox (s := resetStart c s) (engineReset_inbox c s) n

/-- Settles O56: the whole second sequence follows the events of the first so far. -/
theorem engineResetCutsEngineReset : Obligations.EngineResetCutsEngineReset := by
  unfold Obligations.EngineResetCutsEngineReset
  intro s c c' n rest hc hc' ho hin
  have hcut := along_engineReset (s := resetStart c { s with inbox := rest })
    (t := engineReset c { s with inbox := rest }) hc' (fun m hm => (ho m hm).2) (engineReset_others c _) n
  refine ⟨_, (step_resetDuring hc (fun m hm => (ho m hm).1) hin).trans hcut, opTrace_of_trace ?_,
    engineReset_cfg c' _, rfl, rfl, rfl, rfl, rfl, (engineReset_inbox c' _).trans (midway_engineReset_inbox c n _)⟩
  rw [engineReset_trace, midway_engineReset_trace, List.reverse_append, List.append_assoc]

/-! #### Reads of the outputs -/

theorem serveRead_of_value {p : HostPort} {u s : State} {v : Word} (h : hostValue p u = .inl v) :
    serveRead p u s = .next { s with hostSees := v :: s.hostSees } := by
  simp only [serveRead, h]

theorem serveRead_of_fault {p : HostPort} {u s : State} {f : Fault} (h : hostValue p u = .inr f) :
    serveRead p u s = .fault f := by
  simp only [serveRead, h]

section HostRead

variable {s : State} {p : HostPort} {rest : List Input}

/-- A read of an output with a value records it and changes nothing else (10_state R36). -/
theorem step_hostRead_of_value {v : Word} (hin : s.inbox = .hostRead p :: rest) (h : hostValue p s = .inl v) :
    step s = .next { s with inbox := rest, hostSees := v :: s.hostSees } := by
  have hv : hostValue p { s with inbox := rest } = .inl v := by rw [← h]; cases p <;> rfl
  rw [step_of_inbox hin]
  exact serveRead_of_value hv

/-- A read of an output without one is its fault (60_exceptions R196). -/
theorem step_hostRead_of_fault {f : Fault} (hin : s.inbox = .hostRead p :: rest) (h : hostValue p s = .inr f) :
    step s = .fault f := by
  have hv : hostValue p { s with inbox := rest } = .inr f := by rw [← h]; cases p <;> rfl
  rw [step_of_inbox hin]
  exact serveRead_of_fault hv

end HostRead

/-- Settles O48, output by output. -/
theorem readOfNoValueFaults : Obligations.ReadOfNoValueFaults := by
  unfold Obligations.ReadOfNoValueFaults
  intro s rest
  refine ⟨fun hin => ⟨fun h => ?noData, fun d h => ?data⟩,
    fun hin => ⟨fun h => ?noKind, fun k h hk => ?kind, fun k h hk => ?reservedKind⟩,
    fun hin => ⟨fun h => ?noCause, fun k h => ?cause⟩,
    fun hin => ⟨fun h => ?unknown, fun h => ?reset, fun h => ?synchronized, fun h => ?debugMode⟩,
    fun hin => ?busy⟩
  case noData | noKind | noCause => exact step_hostRead_of_fault hin (by simp [hostValue, h])
  case reservedKind => exact step_hostRead_of_fault hin (by simp [hostValue, h, Nat.not_lt.2 hk])
  case data | cause => exact step_hostRead_of_value hin (by simp [hostValue, h])
  case kind => exact step_hostRead_of_value hin (by simp [hostValue, h, hk])
  case unknown | reset | synchronized | debugMode =>
    exact step_hostRead_of_value hin (by rw [hostValue, h]; rfl)
  case busy =>
    refine step_hostRead_of_value hin ?_
    rw [hostValue]
    cases s.busy <;> rfl

end Sys2Proof.Machine

/-! ### Traces of instructions, one after the other -/

namespace Sys2Proof.Machine

/-- An instruction only adds to the trace (00_scope R14). -/
theorem exec_trace {i : Instr} {s t : State} (h : exec i s = .next t) : t.trace = (opTrace s t).reverse ++ s.trace :=
  (wires_field State.trace (wires_exec h)).trans (emits_trace _ s)

/-- Where each of two stretches only adds to the trace, the events of both are those of the first, then those of the
second. -/
theorem opTrace_append {s t u : State} {es fs : List Event} (h : t.trace = es.reverse ++ s.trace)
    (g : u.trace = fs.reverse ++ t.trace) : opTrace s u = es ++ fs :=
  opTrace_of_trace (by rw [g, h, List.reverse_append, List.append_assoc])

/-- Settles O39: neither instruction rewrites the trace it finds. -/
theorem operationsDoNotOverlap : Obligations.OperationsDoNotOverlap := by
  unfold Obligations.OperationsDoNotOverlap
  intro i j s t u hi hj
  exact opTrace_append (exec_trace hi) (exec_trace hj)

/-! ### What ShiftIn reads, and what the target takes meanwhile -/

/-- One bit in makes a target that samples at the rising edge take the level DSI has (40_bit_engine R103, R108). -/
theorem sampledAtRise_sampleEvents (dsi b : Bool) (es : List Event) :
    sampledAtRise dsi false (sampleEvents b ++ es) = dsi :: sampledAtRise dsi false es := rfl

theorem sampledAtRise_flatMap_sampleEvents (bits : List Bool) (dsi : Bool) :
    sampledAtRise dsi false (bits.flatMap sampleEvents) = List.replicate bits.length dsi := by
  induction bits with
  | nil => rfl
  | cons b bits ih => rw [List.flatMap_cons, sampledAtRise_sampleEvents, ih, List.length_cons, List.replicate_succ]

/-- The target takes zeros while bits come in, as many as bits come in (40_bit_engine R106). -/
theorem sampledAtRise_shiftInEvents (bits : List Bool) (dsi : Bool) :
    sampledAtRise dsi false (shiftInEvents bits) = List.replicate bits.length false :=
  sampledAtRise_flatMap_sampleEvents bits false

/-- Bits in leave DSI alone; DSCLK is low after the first (40_bit_engine R103). -/
theorem emits_flatMap_sampleEvents_levels (bits : List Bool) (s : State) :
    (emits (bits.flatMap sampleEvents) s).lvDsi = s.lvDsi ∧
      (emits (bits.flatMap sampleEvents) s).lvDsclk = (bits.isEmpty && s.lvDsclk) := by
  induction bits generalizing s with
  | nil => exact ⟨rfl, rfl⟩
  | cons b bits ih =>
    obtain ⟨hdsi, hclk⟩ := ih (emits (sampleEvents b) s)
    rw [List.flatMap_cons, emits_append, hdsi, hclk]
    exact ⟨rfl, Bool.and_false _⟩

/-- Answer `k` is bit `n - 1 - k` of the value the answers spell (00_scope R12, 40_bit_engine R106). -/
theorem getElem_eq_ofWire_bit (bits : List Bool) {k : Nat} (h : k < bits.length) :
    bits[k]? = some ((ofWire bits.length bits).getLsbD (bits.length - 1 - k)) := by
  have hk := wireBits_getElem ⟨bits.length, ofWire bits.length bits⟩ h
  rwa [wireBits_ofWire bits.length bits rfl] at hk

/-- Settles O9: ShiftIn is its samples' events, and its value spells the answers they read. -/
theorem shiftInAssemblesMsbFirst : Obligations.ShiftInAssemblesMsbFirst := by
  unfold Obligations.ShiftInAssemblesMsbFirst
  intro n s hpos hn
  obtain ⟨bits, rfl, hval, hA, hT⟩ := shiftIn_spec n hn s
  have hread : answersRead s (shiftIn bits.length s).2 = bits := by
    rw [answersRead, hA.opTrace_eq, levelsRead_shiftInEvents]
  have field {α : Type} (f : State → α) := wires_field f hA.wires_eq
  obtain ⟨hdsi, hclk⟩ := emits_flatMap_sampleEvents_levels bits (emits [.wr .dsi false, .dly .setup] s)
  rw [hread, hval]
  refine ⟨rfl, rfl, fun k hk => getElem_eq_ofWire_bit bits hk, ?taken, fun hlow => ?sees, ?dsi, ?dsclk⟩
  case taken =>
    rw [answersTaken, hread]
    refine ⟨hT, ?_⟩
    rw [hA.dso_eq, levelsRead_shiftInEvents]
  case sees =>
    rw [targetSees, hA.opTrace_eq, hlow]
    exact sampledAtRise_shiftInEvents bits s.lvDsi
  case dsi =>
    calc (shiftIn bits.length s).2.lvDsi
        = (emits (shiftInEvents bits) s).lvDsi := field State.lvDsi
      _ = false := hdsi
  case dsclk =>
    have hsome : bits.isEmpty = false := by
      rw [List.isEmpty_eq_false_iff]
      exact List.ne_nil_of_length_pos hpos
    calc (shiftIn bits.length s).2.lvDsclk
        = (emits (shiftInEvents bits) s).lvDsclk := field State.lvDsclk
      _ = (bits.isEmpty && _) := hclk
      _ = false := by rw [hsome, Bool.false_and]

end Sys2Proof.Machine

/-! ### Command words and frames: the decoder and the encoder are inverse -/

namespace Sys2Proof.Machine

section Words

variable {c : Config} {opc w : CmdWord}

/-- The two tests for a register opcode's words agree: the one cuts the index bits off, the other takes them away. -/
theorem hasOpcode_iff (h : IndexFits c opc) : hasOpcode c opc w = true ↔ IsRegWordOf c opc w := by
  have hopc : 2 ^ c.regIdxW * (opc.toNat / 2 ^ c.regIdxW) = opc.toNat :=
    Nat.mul_div_cancel' (Nat.dvd_of_mod_eq_zero h.indexZero)
  have hw : w.toNat - w.toNat % 2 ^ c.regIdxW = 2 ^ c.regIdxW * (w.toNat / 2 ^ c.regIdxW) :=
    Nat.sub_eq_of_eq_add (Nat.div_add_mod _ _).symm
  have hquot : w.toNat / 2 ^ c.regIdxW = opc.toNat / 2 ^ c.regIdxW ↔
      w.toNat - w.toNat % 2 ^ c.regIdxW = opc.toNat := by
    rw [hw]
    nth_rw 2 [← hopc]
    exact (Nat.mul_right_inj (by positivity)).symm
  simp only [← isRegWord_iff h, hasOpcode, Config.isRegWord, Bool.and_eq_true, decide_eq_true_eq]
  exact and_congr_left' hquot

/-- A 32-bit index below `REG_COUNT` makes one of the opcode's words (30_encoding R72, R73). -/
theorem isRegWordOf_index {i : Word} (hi : i.toNat < c.regCount) : IsRegWordOf c opc (opc ||| i.setWidth 16) :=
  ⟨i.toNat, hi, rfl⟩

/-- The index field of a register word is the index put there (30_encoding R72). -/
theorem wordIndex_or (h : IndexFits c opc) {i : Word} (hi : i.toNat < c.regCount) :
    wordIndex c (opc ||| i.setWidth 16) = i := by
  have hfield : c.indexField (opc ||| i.setWidth 16) = i.toNat := h.indexField_or hi
  rw [wordIndex, ← Config.indexField, hfield, BitVec.ofNat_toNat, BitVec.setWidth_eq]

/-- A word of a register opcode is that opcode with its own index, which is below `REG_COUNT`. -/
theorem or_wordIndex (h : IndexFits c opc) (hw : IsRegWordOf c opc w) :
    opc ||| (wordIndex c w).setWidth 16 = w ∧ (wordIndex c w).toNat < c.regCount := by
  obtain ⟨i, hi, rfl⟩ := hw
  have hi32 : i < 2 ^ 32 :=
    lt_of_lt_of_le hi (h.countLe.trans (Nat.pow_le_pow_right (by norm_num) (h.widthLe.trans (by norm_num))))
  have hto : (BitVec.ofNat 32 i).toNat = i := by rw [BitVec.toNat_ofNat, Nat.mod_eq_of_lt hi32]
  have hword : wordIndex c (opc ||| BitVec.ofNat 16 i) = BitVec.ofNat 32 i :=
    congrArg (BitVec.ofNat 32) (h.indexField_or hi)
  have hset : (BitVec.ofNat 32 i).setWidth 16 = BitVec.ofNat 16 i := by
    rw [← BitVec.ofNat_toNat, hto]
  rw [hword, hset, hto]
  exact ⟨rfl, hi⟩

end Words

/-- What 00_scope R9 says of the command words of a well-formed configuration: no two of the six sets meet. -/
structure WordsApart (c : Config) : Prop where
  readFits  : IndexFits c c.opcReadReg
  writeFits : IndexFits c c.opcWriteReg
  plain     : c.plainWords.Nodup
  notRead   : ∀ w ∈ c.plainWords, ¬ IsRegWordOf c c.opcReadReg w
  notWrite  : ∀ w ∈ c.plainWords, ¬ IsRegWordOf c c.opcWriteReg w
  oneReg    : ∀ w, ¬ (IsRegWordOf c c.opcReadReg w ∧ IsRegWordOf c c.opcWriteReg w)

theorem wordsApart_of_wf {c : Config} (h : c.wf = true) : WordsApart c := by
  obtain ⟨⟨-, hwidth, hpos, hcount⟩, ⟨hr0, hw0⟩, ⟨hplain, hreg, hne⟩, -⟩ := (wf_iff c).1 h
  have hread : IndexFits c c.opcReadReg := ⟨hwidth, hcount, hr0⟩
  have hwrite : IndexFits c c.opcWriteReg := ⟨hwidth, hcount, hw0⟩
  refine ⟨hread, hwrite, hplain, fun w hw => ?_, fun w hw => ?_, (regWords_disjoint_iff hread hwrite hpos).2 hne⟩
  all_goals
    have hboth := List.all_eq_true.1 hreg w hw
    rw [Bool.and_eq_true, Bool.not_eq_true', Bool.not_eq_true'] at hboth
  · rw [← isRegWord_iff hread, hboth.1]; exact Bool.false_ne_true
  · rw [← isRegWord_iff hwrite, hboth.2]; exact Bool.false_ne_true

/-- The class of a command's word. -/
def classOf : Command → WordClass
  | .readMem32 _ => .readMem32
  | .writeMem32 _ _ => .writeMem32
  | .readReg i => .readReg i
  | .writeReg i _ => .writeReg i
  | .enterDebug => .enterDebug
  | .poll => .poll

/-- A word that is none of the four plain ones is looked up among the register words. -/
theorem classify_of_not_plain {c : Config} {w : CmdWord} (h : w ∉ c.plainWords) :
    classify c w =
      if hasOpcode c c.opcReadReg w then .readReg (wordIndex c w)
      else if hasOpcode c c.opcWriteReg w then .writeReg (wordIndex c w) else .unknown := by
  simp only [Config.plainWords, List.mem_cons, List.not_mem_nil, or_false, not_or] at h
  obtain ⟨h1, h2, h3, h4⟩ := h
  rw [classify, if_neg h1, if_neg h2, if_neg h3, if_neg h4]

/-- A well-formed command's word is read as its own class (30_encoding R71, R72, R86). -/
theorem classify_commandWord {c : Config} (hc : WordsApart c) {cmd : Command} (h : cmd.toInstr.wf c = true) :
    classify c (commandWord c cmd) = classOf cmd := by
  have hplain := hc.plain
  simp only [Config.plainWords, List.nodup_cons, List.mem_cons, List.not_mem_nil, or_false, not_or, not_false_eq_true,
    List.nodup_nil, and_true] at hplain
  obtain ⟨⟨hrw, hre, hrp⟩, ⟨hwe, hwp⟩, hep⟩ := hplain
  cases cmd with
  | readMem32 a => simp [classify, commandWord, classOf]
  | writeMem32 a d => simp [classify, commandWord, classOf, Ne.symm hrw]
  | enterDebug => simp [classify, commandWord, classOf, Ne.symm hre, Ne.symm hwe]
  | poll => simp [classify, commandWord, classOf, Ne.symm hrp, Ne.symm hwp, Ne.symm hep]
  | readReg i =>
    have hi : i.toNat < c.regCount := of_decide_eq_true h
    have hreg := isRegWordOf_index (opc := c.opcReadReg) hi
    rw [commandWord, classify_of_not_plain (fun hp => hc.notRead _ hp hreg),
      if_pos ((hasOpcode_iff hc.readFits).2 hreg), wordIndex_or hc.readFits hi, classOf]
  | writeReg i d =>
    have hi : i.toNat < c.regCount := of_decide_eq_true h
    have hreg := isRegWordOf_index (opc := c.opcWriteReg) hi
    have hnot : ¬ hasOpcode c c.opcReadReg (c.opcWriteReg ||| i.setWidth 16) = true := by
      rw [hasOpcode_iff hc.readFits]
      exact fun hr => hc.oneReg _ ⟨hr, hreg⟩
    rw [commandWord, classify_of_not_plain (fun hp => hc.notWrite _ hp hreg), if_neg hnot,
      if_pos ((hasOpcode_iff hc.writeFits).2 hreg), wordIndex_or hc.writeFits hi, classOf]

/-- What a word of each class is. -/
inductive Classified (c : Config) (w : CmdWord) : WordClass → Prop
  | readMem32 (h : w = c.opcReadMem32) : Classified c w .readMem32
  | writeMem32 (h : w = c.opcWriteMem32) : Classified c w .writeMem32
  | enterDebug (h : w = c.opcEnterDebug) : Classified c w .enterDebug
  | poll (h : w = c.opcPoll) : Classified c w .poll
  | readReg (i : Word) (hi : i.toNat < c.regCount) (h : w = c.opcReadReg ||| i.setWidth 16) :
      Classified c w (.readReg i)
  | writeReg (i : Word) (hi : i.toNat < c.regCount) (h : w = c.opcWriteReg ||| i.setWidth 16) :
      Classified c w (.writeReg i)
  | unknown : Classified c w .unknown

theorem classified_classify {c : Config} (hc : WordsApart c) (w : CmdWord) : Classified c w (classify c w) := by
  unfold classify
  split
  next h => exact .readMem32 h
  split
  next h => exact .writeMem32 h
  split
  next h => exact .enterDebug h
  split
  next h => exact .poll h
  split
  next h =>
    obtain ⟨hw, hi⟩ := or_wordIndex hc.readFits ((hasOpcode_iff hc.readFits).1 h)
    exact .readReg _ hi hw.symm
  split
  next h =>
    obtain ⟨hw, hi⟩ := or_wordIndex hc.writeFits ((hasOpcode_iff hc.writeFits).1 h)
    exact .writeReg _ hi hw.symm
  next => exact .unknown

/-! #### Frames -/

theorem encode_toInstr (c : Config) (cmd : Command) : encode c cmd.toInstr = .frame (frameBits c cmd) := by
  cases cmd <;> rfl

/-- A frame of a well-formed command is read as that command, and what follows it is left over (30_encoding R76,
R80). -/
theorem decodeFrame_frameBits {c : Config} (hc : c.wf = true) {cmd : Command} (h : cmd.toInstr.wf c = true)
    (rest : List Bool) : decodeFrame c (frameBits c cmd ++ rest) = .instr cmd.toInstr rest := by
  rw [frameBits_eq, List.append_assoc]
  simp only [decodeFrame, takeField_wireBits, classify_commandWord (wordsApart_of_wf hc) h]
  cases cmd with
  | readMem32 a =>
    have ha : a.toNat % 4 = 0 := of_decide_eq_true h
    simp [classOf, operands, takeField_wireBits, ha, Command.toInstr]
  | writeMem32 a d =>
    have ha : a.toNat % 4 = 0 := of_decide_eq_true h
    simp [classOf, operands, takeField_wireBits, ha, Command.toInstr]
  | writeReg i d => simp [classOf, operands, takeField_wireBits, Command.toInstr]
  | readReg i | enterDebug | poll => simp [classOf, operands, Command.toInstr]

/-- A command's word and then its operand fields are its frame. -/
theorem frameBits_of_fields {c : Config} {cmd : Command} {w : CmdWord} {bits rest : List Bool}
    (hw : w = commandWord c cmd) (ho : bits = (operands cmd).flatMap (fun v => wireBits ⟨32, v⟩) ++ rest) :
    wireBits ⟨16, w⟩ ++ bits = frameBits c cmd ++ rest := by
  rw [hw, ho, frameBits_eq, List.append_assoc]

/-- What the frame decoder reads is a well-formed command, whose frame stands before the bits left over. -/
theorem decodeFrame_instr {c : Config} (hc : c.wf = true) {bits rest : List Bool} {i : Instr}
    (h : decodeFrame c bits = .instr i rest) :
    ∃ cmd : Command, i = cmd.toInstr ∧ i.wf c = true ∧ bits = frameBits c cmd ++ rest := by
  unfold decodeFrame at h
  split at h
  next => cases h
  next w bits1 hword =>
    rw [takeField_some hword]
    have hclass := classified_classify (wordsApart_of_wf hc) w
    generalize classify c w = k at h hclass
    cases hclass with
    | unknown => cases h
    | enterDebug hw => cases h; exact ⟨.enterDebug, rfl, rfl, frameBits_of_fields hw rfl⟩
    | poll hw => cases h; exact ⟨.poll, rfl, rfl, frameBits_of_fields hw rfl⟩
    | readReg r hr hw => cases h; exact ⟨.readReg r, rfl, decide_eq_true hr, frameBits_of_fields hw rfl⟩
    | writeReg r hr hw =>
      dsimp only at h
      split at h
      next => cases h
      next d _ hd =>
        cases h
        have ho := takeField_some hd
        exact ⟨.writeReg r d, rfl, decide_eq_true hr, frameBits_of_fields hw (by simpa [operands] using ho)⟩
    | readMem32 hw =>
      dsimp only at h
      split at h
      next => cases h
      next a _ ha =>
        split at h <;> cases h
        next halign =>
          have ho := takeField_some ha
          exact ⟨.readMem32 a, rfl, decide_eq_true halign, frameBits_of_fields hw (by simpa [operands] using ho)⟩
    | writeMem32 hw =>
      dsimp only at h
      split at h
      next => cases h
      next a _ ha =>
        split at h
        next => cases h
        next d _ hd =>
          split at h <;> cases h
          next halign =>
            have ho := takeField_some ha
            rw [takeField_some hd] at ho
            exact ⟨.writeMem32 a d, rfl, decide_eq_true halign, frameBits_of_fields hw (by simpa [operands] using ho)⟩

/-- Settles O1: a host operation by its tag, a wire command by `decodeFrame_frameBits` with nothing after its frame. -/
theorem decodeAnswersEncode : Obligations.DecodeAnswersEncode := by
  unfold Obligations.DecodeAnswersEncode
  intro c i hc hi
  have command (cmd : Command) (h : cmd.toInstr.wf c = true) :
      decode c (encode c cmd.toInstr) = .instr cmd.toInstr [] := by
    rw [encode_toInstr, decode, ← List.append_nil (frameBits c cmd)]
    exact decodeFrame_frameBits hc h []
  cases i with
  | resetTarget | sync | enterDebug | readMem32 | writeMem32 | readReg | writeReg | disconnect => rfl
  | cmdReadMem32 a => exact command (.readMem32 a) hi
  | cmdWriteMem32 a d => exact command (.writeMem32 a d) hi
  | cmdReadReg r => exact command (.readReg r) hi
  | cmdWriteReg r d => exact command (.writeReg r d) hi
  | cmdEnterDebug => exact command .enterDebug hi
  | cmdPoll => exact command .poll hi

/-- Settles O2, from the one lemma that says what the frame decoder reads. -/
theorem decodedFrameIsItsEncoding : Obligations.DecodedFrameIsItsEncoding := by
  unfold Obligations.DecodedFrameIsItsEncoding
  intro c bits rest i hc h
  obtain ⟨cmd, rfl, hwf, hbits⟩ := decodeFrame_instr hc h
  exact ⟨hwf, _, encode_toInstr c cmd, hbits⟩

end Sys2Proof.Machine

/-! ### What the target takes in an access -/

namespace Sys2Proof.Machine

/-- A frame's events are those of its bits, one after the other (30_encoding R74). -/
theorem frameEvents_eq (c : Config) (cmd : Command) : frameEvents c cmd = (frameBits c cmd).flatMap bitEvents := by
  rw [frameEvents, frameBits, List.flatMap_assoc]
  rfl

/-- Bits sent are taken in order, and the target goes on from DSCLK low (40_bit_engine R105, R108). -/
theorem sampledAtRise_flatMap_bitEvents_append (bits : List Bool) (dsi : Bool) (es : List Event) :
    sampledAtRise dsi false (bits.flatMap bitEvents ++ es) = bits ++ sampledAtRise (bits.getLastD dsi) false es := by
  induction bits generalizing dsi with
  | nil => rfl
  | cons b bits ih =>
    rw [List.flatMap_cons, List.append_assoc, sampledAtRise_bitEvents, ih, List.getLastD_cons, List.cons_append]

/-- The events that start with a command's frame make the target take the frame's bits first. -/
theorem targetSees_frame {s t : State} {cmd : Command} {es : List Event} (hlow : s.lvDsclk = false)
    (h : t.trace = (frameEvents s.cfg cmd ++ es).reverse ++ s.trace) :
    targetSees s t = frameBits s.cfg cmd ++ sampledAtRise ((frameBits s.cfg cmd).getLastD s.lvDsi) false es := by
  rw [targetSees, opTrace_of_trace h, hlow, frameEvents_eq, sampledAtRise_flatMap_bitEvents_append]

/-! #### Accesses that pass both checks -/

theorem access_passed (bad : Kind) (cmd : Command) (done : FramerRet × State → State) {ok : Bool} {s : State}
    (hok : ok = true) (hts : s.ts = .debugMode) : access ok bad cmd done s = done (sendCommand cmd s) := by
  rw [access, if_pos hok, if_pos hts]

theorem exec_readMem32 {s : State} {a : Word} (ha : a.toNat % 4 = 0) (hts : s.ts = .debugMode) :
    exec (.readMem32 a) s = .next (readResult (sendCommand (.readMem32 a) (accept s))) :=
  congrArg Host.Outcome.next (access_passed _ _ _ ((aligned4_iff a).2 ha) hts)

theorem exec_writeMem32 {s : State} {a d : Word} (ha : a.toNat % 4 = 0) (hts : s.ts = .debugMode) :
    exec (.writeMem32 a d) s = .next (writeResult (sendCommand (.writeMem32 a d) (accept s))) :=
  congrArg Host.Outcome.next (access_passed _ _ _ ((aligned4_iff a).2 ha) hts)

theorem exec_readReg {s : State} {r : Word} (hr : r.toNat < s.cfg.regCount) (hts : s.ts = .debugMode) :
    exec (.readReg r) s = .next (readResult (sendCommand (.readReg r) (accept s))) :=
  congrArg Host.Outcome.next (access_passed _ _ _ ((validIndex_iff s.cfg r).2 hr) hts)

theorem exec_writeReg {s : State} {r d : Word} (hr : r.toNat < s.cfg.regCount) (hts : s.ts = .debugMode) :
    exec (.writeReg r d) s = .next (writeResult (sendCommand (.writeReg r d) (accept s))) :=
  congrArg Host.Outcome.next (access_passed _ _ _ ((validIndex_iff s.cfg r).2 hr) hts)

/-- What an access makes of the framer's answer emits nothing. -/
@[simp] theorem readResult_trace (p : FramerRet × State) : (readResult p).trace = p.2.trace := by
  obtain ⟨r, t⟩ := p
  cases r <;> rfl

@[simp] theorem writeResult_trace (p : FramerRet × State) : (writeResult p).trace = p.2.trace := rfl

/-- What the target takes during a command that an operation sends: its frame; after a write's nothing more. -/
theorem targetSees_sendCommand {s t : State} (cmd : Command) (hlow : s.lvDsclk = false)
    (ht : t.trace = (sendCommand cmd (accept s)).2.trace) :
    ∃ rest, targetSees s t = frameBits s.cfg cmd ++ rest ∧ (responseWidth cmd = none → rest = []) := by
  cases hw : responseWidth cmd with
  | none =>
    obtain ⟨-, hA⟩ := sendCommand_write cmd hw (accept s)
    refine ⟨_, targetSees_frame (es := []) hlow ?_, fun _ => rfl⟩
    rw [ht, hA.trace_eq, List.append_nil]
    rfl
  | some w =>
    obtain ⟨bits, -, hA, -⟩ := sendCommand_read cmd w hw (accept s)
    exact ⟨_, targetSees_frame hlow (ht.trans hA.trace_eq), nofun⟩

/-- So the frame decoder reads the command back. -/
theorem decodeFrame_targetSees {s t : State} {cmd : Command} (hc : s.cfg.wf = true) (hlow : s.lvDsclk = false)
    (hwf : cmd.toInstr.wf s.cfg = true) (ht : t.trace = (sendCommand cmd (accept s)).2.trace) :
    ∃ rest, decodeFrame s.cfg (targetSees s t) = .instr cmd.toInstr rest ∧ (responseWidth cmd = none → rest = []) := by
  obtain ⟨rest, hsees, hrest⟩ := targetSees_sendCommand cmd hlow ht
  exact ⟨rest, hsees ▸ decodeFrame_frameBits hc hwf rest, hrest⟩

/-- Settles O31: each access sends its command's frame, and the frame decodes to the command. -/
theorem targetDecodesTheAccess : Obligations.TargetDecodesTheAccess := by
  unfold Obligations.TargetDecodesTheAccess
  intro s a r d hc hlow hts ha hr
  have ha' : decide (a.toNat % 4 = 0) = true := decide_eq_true ha
  have hr' : decide (r.toNat < s.cfg.regCount) = true := decide_eq_true hr
  refine ⟨?readMem32, ?writeMem32, ?readReg, ?writeReg⟩
  case readMem32 =>
    obtain ⟨rest, h, -⟩ := decodeFrame_targetSees (cmd := .readMem32 a) hc hlow ha' (readResult_trace _)
    exact ⟨_, rest, exec_readMem32 ha hts, h⟩
  case writeMem32 =>
    obtain ⟨rest, h, hrest⟩ := decodeFrame_targetSees (cmd := .writeMem32 a d) hc hlow ha' (writeResult_trace _)
    exact ⟨_, exec_writeMem32 ha hts, hrest rfl ▸ h⟩
  case readReg =>
    obtain ⟨rest, h, -⟩ := decodeFrame_targetSees (cmd := .readReg r) hc hlow hr' (readResult_trace _)
    exact ⟨_, rest, exec_readReg hr hts, h⟩
  case writeReg =>
    obtain ⟨rest, h, hrest⟩ := decodeFrame_targetSees (cmd := .writeReg r d) hc hlow hr' (writeResult_trace _)
    exact ⟨_, exec_writeReg hr hts, hrest rfl ▸ h⟩

end Sys2Proof.Machine

/-! ### What the ports run -/

namespace Sys2Proof.Machine

/-- A tag of 8 or more is no operation (30_encoding R88). -/
theorem decodeRequest_reserved {r : Request} (h : 8 ≤ r.op.toNat) :
    decodeRequest r = .refused (.reservedOp r.op) := by
  unfold decodeRequest
  split
  case h_9 => rfl
  all_goals omega

/-- Settles O3, by the port's look at the tag. -/
theorem reservedTagsRefused : Obligations.ReservedTagsRefused := by
  unfold Obligations.ReservedTagsRefused
  intro s op a d rest hbusy hop hin
  have hdecode := decodeRequest_reserved (r := ⟨op, a, d⟩) hop
  rw [step_of_inbox hin]
  simp [serve, serveRequest, hbusy, hdecode]

/-- Settles O4, tag by tag. -/
theorem unusedFieldsHaveNoEffect : Obligations.UnusedFieldsHaveNoEffect := by
  unfold Obligations.UnusedFieldsHaveNoEffect
  intro op a a' d d'
  constructor
  · rintro (rfl | rfl | rfl | rfl) <;> rfl
  · rintro (rfl | rfl) <;> rfl

/-- Settles O5, by reading each word. -/
theorem tableWordsDecode : Obligations.TableWordsDecode := by
  unfold Obligations.TableWordsDecode
  decide

/-- Settles O50: the request port at an engine that is not busy. -/
theorem stepRunsTheRequest : Obligations.StepRunsTheRequest := by
  unfold Obligations.StepRunsTheRequest
  intro s r i bits rest hbusy hin hdecode
  rw [step_of_inbox hin]
  exact serveRequest_of_decode (s := { s with inbox := rest }) hbusy hdecode

/-- The frame port asks whether a rule calls the framer for the command in this `TS` (40_bit_engine R110). -/
theorem serveFrame_of_decode {s : State} {bits more : List Bool} {i : Instr}
    (h : decodeFrame s.cfg bits = .instr i more) :
    serveFrame bits s = if framerCalledIn i s.ts then exec i s else .refused (.framerNotCalled s.ts) := by
  rw [serveFrame, h]

/-- Settles O51, by the frame port's one test. -/
theorem stepRunsTheFrame : Obligations.StepRunsTheFrame := by
  unfold Obligations.StepRunsTheFrame
  intro s bits more i rest hin hdecode
  have hserve := serveFrame_of_decode (s := { s with inbox := rest }) hdecode
  rw [step_of_inbox hin, serve, hserve]
  exact ⟨fun hcalled => if_pos hcalled, fun hnot => if_neg (ne_true_of_eq_false hnot)⟩

/-- Settles O53: `connect`'s later requests are inputs that look at the last `RESULT.KIND` first. -/
theorem connectStopsAtTheFirstError : Obligations.ConnectStopsAtTheFirstError := by
  unfold Obligations.ConnectStopsAtTheFirstError
  refine ⟨rfl, fun s r i bits rest hbusy hin hdecode => ?_⟩
  have hserve := serveRequest_of_decode (s := { s with inbox := rest }) hbusy hdecode
  rw [step_of_inbox hin, serve, hserve]
  exact ⟨fun hok => if_pos hok, fun herror => if_neg herror⟩

end Sys2Proof.Machine

/-! ### Answers that the target has listed -/

namespace Sys2Proof.Machine

/-- As far as both go, the answers taken are the listed ones. -/
theorem Taken.take_eq {bits : List Bool} {s : State} (h : Taken bits s) {n : Nat} (hb : n ≤ bits.length)
    (hd : n ≤ s.dso.length) : bits.take n = s.dso.take n := by
  have hn := congrArg (List.take n) h
  rwa [List.take_take, List.take_take, Nat.min_eq_left hd, Nat.min_eq_left hb] at hn

/-- Settles O10: ShiftOut delivers the bits on the wire (O8), ShiftIn takes just these, and they spell the value. -/
theorem loopbackRoundTrip : Obligations.LoopbackRoundTrip := by
  unfold Obligations.LoopbackRoundTrip
  intro b s hwidth hlow
  obtain ⟨hsees, hlen, -⟩ := shiftOutDeliversEveryBit b s (by omega) hlow
  obtain ⟨bits, hbits, hval, -, hT⟩ :=
    shiftIn_spec b.width (by omega) { shiftOut b s with dso := targetSees s (shiftOut b s) }
  have htake := hT.take_eq (n := b.width) hbits.ge (by rw [hsees, hlen])
  rw [List.take_of_length_le hbits.le, hsees, List.take_of_length_le hlen.le] at htake
  rw [hval, htake, ofWire_wireBits]

end Sys2Proof.Machine

/-! ### Commands run by themselves -/

namespace Sys2Proof.Machine

theorem pulseCount_append (es fs : List Event) : pulseCount (es ++ fs) = pulseCount es + pulseCount fs :=
  List.countP_append

/-- One pulse a bit (40_bit_engine R109). -/
theorem pulseCount_flatMap_bitEvents (bits : List Bool) : pulseCount (bits.flatMap bitEvents) = bits.length := by
  induction bits with
  | nil => rfl
  | cons b bits ih =>
    have hbit : pulseCount (bitEvents b) = 1 := by cases b <;> rfl
    rw [List.flatMap_cons, pulseCount_append, hbit, ih, List.length_cons, Nat.add_comm]

theorem pulseCount_frameEvents (c : Config) (cmd : Command) :
    pulseCount (frameEvents c cmd) = 16 + 32 * (operands cmd).length := by
  rw [frameEvents_eq, pulseCount_flatMap_bitEvents, Laws.frame_length]

/-- A command run by itself is what `SendCommand` makes of the state, with its return kept (42_command_framer R140). -/
theorem runCommand_after {cmd : Command} {s : State} {es : List Event} {r : FramerRet} (hr : (sendCommand cmd s).1 = r)
    (h : After es s (sendCommand cmd s).2) :
    scrub (runCommand cmd s) = { emits es (scrub s) with framerRet := some r } ∧ opTrace s (runCommand cmd s) = es := by
  constructor
  · rw [← hr, ← h]; rfl
  · exact opTrace_of_trace (t := runCommand cmd s) h.trace_eq

/-- A write-class command run by itself: its frame, nothing read, NONE (42_command_framer R145). -/
theorem runCommand_write {cmd : Command} (h : responseWidth cmd = none) (s : State) :
    scrub (runCommand cmd s) = { emits (frameEvents s.cfg cmd) (scrub s) with framerRet := some .nothing } ∧
      answersRead s (runCommand cmd s) = [] ∧
      pulseCount (opTrace s (runCommand cmd s)) = 16 + 32 * (operands cmd).length := by
  obtain ⟨hr, hA⟩ := sendCommand_write cmd h s
  obtain ⟨hscrub, htrace⟩ := runCommand_after hr hA
  refine ⟨hscrub, ?_, ?_⟩
  · rw [answersRead, htrace, levelsRead_frameEvents]
  · rw [htrace, pulseCount_frameEvents]

/-- Settles O11: both commands are write-class, with two operand fields and one. -/
theorem writeCommandsSendTheirFrame : Obligations.WriteCommandsSendTheirFrame := by
  unfold Obligations.WriteCommandsSendTheirFrame
  intro s a i d
  exact ⟨⟨_, rfl, runCommand_write (cmd := .writeMem32 a d) rfl s⟩,
    ⟨_, rfl, runCommand_write (cmd := .writeReg i d) rfl s⟩⟩

/-! #### The pending command stays pending during a poll -/

theorem shiftOutBits_pend (b : BitSeq) (k : Nat) (s : State) : (shiftOutBits b k s).pend = s.pend := by
  induction k generalizing s with
  | zero => rfl
  | succ k ih => exact ih { pulse (dly .setup (wr .dsi (b.value.getLsbD k) s)) with nbit := k }

theorem sendFrame_pend (bs : List BitSeq) (s : State) : (sendFrame bs s).pend = s.pend := by
  induction bs generalizing s with
  | nil => rfl
  | cons b bs ih => exact (ih _).trans (shiftOutBits_pend b b.width { s with nbit := b.width })

theorem shiftInBits_pend (n k : Nat) (s : State) : (shiftInBits n k s).pend = s.pend := by
  induction k generalizing s with
  | zero => rfl
  | succ k ih =>
    exact ih { (pulseSample s).2 with sh := accumulate n (pulseSample s).2.sh (pulseSample s).1, nbit := k }

theorem pollOnce_pend (w : RespWidth) (s : State) : (pollOnce w s).2.pend = s.pend :=
  (shiftInBits_pend _ _ _).trans (sendFrame_pend _ s)

/-- Settles O13: one poll of the pending command's width, its raw frame kept. -/
theorem pollTakesOneResponse : Obligations.PollTakesOneResponse := by
  unfold Obligations.PollTakesOneResponse
  intro s w hpend
  have hwidth : pollWidth s = w := by rw [pollWidth, hpend]
  obtain ⟨bits, hlen, hval, hA, hT⟩ := pollOnce_spec w s
  have hexec : exec .cmdPoll s =
      .next { (pollOnce w s).2 with framerRet := some (.response ⟨1 + w.bits, ofWire (1 + w.bits) bits⟩) } := by
    rw [← hval, ← hwidth]; rfl
  refine ⟨_, hexec, ?_⟩
  generalize ht : ({ (pollOnce w s).2 with
    framerRet := some (.response ⟨1 + w.bits, ofWire (1 + w.bits) bits⟩) } : State) = t
  have htrace : opTrace s t = frameEvents s.cfg .poll ++ shiftInEvents bits := by
    rw [← ht]; exact opTrace_of_trace hA.trace_eq
  have hread : answersRead s t = bits := by
    rw [answersRead, htrace, levelsRead_append, levelsRead_frameEvents, levelsRead_shiftInEvents, List.nil_append]
  rw [hread, answersTaken, hread]
  refine ⟨hlen, ⟨hT, ?dso⟩, ?pend, ?rest⟩
  case dso =>
    rw [← ht]
    simpa using hA.dso_eq
  case pend =>
    rw [← ht]
    exact (pollOnce_pend w s).trans hpend
  case rest =>
    rw [← ht, ← hA]
    rfl

end Sys2Proof.Machine

/-! ### Response frames -/

namespace Sys2Proof.Machine

section NotReady

variable {n : Nat} {junk : List (List Bool)}

theorem notReadyFrames_length (h : ∀ f ∈ junk, f.length = n) :
    (notReadyFrames junk).length = (1 + n) * junk.length := by
  induction junk with
  | nil => rfl
  | cons f junk ih =>
    obtain ⟨hf, hjunk⟩ := List.forall_mem_cons.1 h
    have hcons : notReadyFrames (f :: junk) = true :: f ++ notReadyFrames junk := rfl
    rw [hcons, List.length_append, ih hjunk, List.length_cons, List.length_cons, hf]
    ring

/-- The first bit of each not-ready frame is 1 (30_encoding R81). -/
theorem notReadyFrames_status (h : ∀ f ∈ junk, f.length = n) (more : List Bool) {j : Nat} (hj : j < junk.length) :
    (notReadyFrames junk ++ more)[(1 + n) * j]? = some true := by
  induction junk generalizing j with
  | nil => exact absurd hj (Nat.not_lt_zero j)
  | cons f junk ih =>
    obtain ⟨hf, hjunk⟩ := List.forall_mem_cons.1 h
    have hcons : notReadyFrames (f :: junk) ++ more = (true :: f) ++ (notReadyFrames junk ++ more) := by
      simp [notReadyFrames]
    cases j with
    | zero => rfl
    | succ j =>
      have hlen : (true :: f).length = 1 + n := by rw [List.length_cons, hf, Nat.add_comm]
      rw [hcons, Nat.mul_succ, Nat.add_comm, List.getElem?_append_right (by omega), hlen, Nat.add_sub_cancel_left]
      exact ih hjunk (Nat.lt_of_succ_lt_succ hj)

/-- After the not-ready frames comes what comes after them. -/
theorem notReadyFrames_append_getElem (h : ∀ f ∈ junk, f.length = n) (more : List Bool) (m : Nat) :
    (notReadyFrames junk ++ more)[(1 + n) * junk.length + m]? = more[m]? := by
  rw [List.getElem?_append_right (by rw [notReadyFrames_length h]; omega), notReadyFrames_length h,
    Nat.add_sub_cancel_left]

end NotReady

/-! #### What whole frames mean -/

section Frames

variable {w : RespWidth} {f : List Bool}

theorem drop_frame (hf : f.length = w.bits) (bits : List Bool) :
    (true :: f ++ bits).drop (1 + w.bits) = bits :=
  List.drop_left' (by rw [List.length_cons, hf, Nat.add_comm])

/-- A not-ready frame with a poll left: the answer is that of the frames after it (42_command_framer R146). -/
theorem answerOf_notReady (hf : f.length = w.bits) (left : Nat) (bits : List Bool) :
    answerOf w (left + 1) (true :: f ++ bits) = answerOf w left bits := by
  conv_lhs => unfold answerOf
  rw [drop_frame hf, List.cons_append, List.head?_cons, if_pos rfl]

theorem framesTaken_notReady (hf : f.length = w.bits) (left : Nat) (bits : List Bool) :
    framesTaken w (left + 1) (true :: f ++ bits) = 1 + framesTaken w left bits := by
  conv_lhs => unfold framesTaken
  rw [drop_frame hf, List.cons_append, List.head?_cons, if_pos rfl]

theorem framesTaken_pos (w : RespWidth) (left : Nat) (bits : List Bool) : 1 ≤ framesTaken w left bits := by
  cases left with
  | zero => exact le_refl 1
  | succ left => unfold framesTaken; split <;> omega

/-- Bits that hold a frame at all: its status bit, its data field, and what follows it. -/
theorem exists_frame {bits : List Bool} (h : 1 + w.bits ≤ bits.length) :
    ∃ b f more, f.length = w.bits ∧ bits = b :: f ++ more := by
  cases bits with
  | nil => rw [List.length_nil] at h; omega
  | cons b bits =>
    rw [List.length_cons] at h
    exact ⟨b, bits.take w.bits, bits.drop w.bits, by rw [List.length_take]; omega, by simp⟩

/-- What the answers to a read-class command are, and what they mean: not-ready frames to the ceiling and a time-out, or
at most as many as polls are allowed, and the data of the ready frame after them (42_command_framer R146). -/
inductive Answered (w : RespWidth) (left : Nat) (bits : List Bool) : Prop
  | timeout (junk : List (List Bool)) (hjunk : ∀ f ∈ junk, f.length = w.bits) (hcount : junk.length = 1 + left)
      (hbits : bits = notReadyFrames junk) (hans : answerOf w left bits = .timeout)
  | ready (junk : List (List Bool)) (data : List Bool) (hjunk : ∀ f ∈ junk, f.length = w.bits)
      (hcount : junk.length ≤ left) (hdata : data.length = w.bits) (hbits : bits = notReadyFrames junk ++ false :: data)
      (hans : answerOf w left bits = .data ⟨w.bits, ofWire w.bits data⟩)

/-- A ready frame alone, however many polls are left. -/
theorem answered_readyFrame (hf : f.length = w.bits) (left : Nat) : Answered w left (false :: f) := by
  refine .ready [] f (by simp) (Nat.zero_le left) hf rfl ?_
  rw [answerOf_ready w left (false :: f) (by simp), List.drop_succ_cons, List.drop_zero, List.take_of_length_le hf.le]

/-- One more not-ready frame before the others, and one more poll allowed. -/
theorem Answered.notReady {left : Nat} {bits : List Bool} (h : Answered w left bits) (hf : f.length = w.bits) :
    Answered w (left + 1) (true :: f ++ bits) := by
  have hans := answerOf_notReady hf left bits
  cases h with
  | timeout junk hjunk hcount hbits h =>
    refine .timeout (f :: junk) (List.forall_mem_cons.2 ⟨hf, hjunk⟩) ?_ ?_ (hans.trans h)
    · rw [List.length_cons, hcount, Nat.add_assoc]
    · rw [hbits]; rfl
  | ready junk data hjunk hcount hdata hbits h =>
    refine .ready (f :: junk) data (List.forall_mem_cons.2 ⟨hf, hjunk⟩) ?_ hdata ?_ (hans.trans h)
    · rw [List.length_cons]; omega
    · rw [hbits]; simp [notReadyFrames]

/-- Whole frames, as many as `RecvResponse` takes in, are answered so. -/
theorem answered {left : Nat} {bits : List Bool} (h : bits.length = framesTaken w left bits * (1 + w.bits)) :
    Answered w left bits := by
  induction left generalizing bits with
  | zero =>
    obtain ⟨b, f, more, hf, rfl⟩ := exists_frame (w := w) (bits := bits) (by rw [h]; simp [framesTaken])
    have hmore : more = [] := by
      rw [framesTaken, List.length_append, List.length_cons, hf] at h
      exact List.length_eq_zero_iff.1 (by omega)
    subst hmore
    rw [List.append_nil]
    cases b with
    | false => exact answered_readyFrame hf 0
    | true => exact .timeout [f] (by simpa using hf) rfl (by simp [notReadyFrames]) (by simp [answerOf])
  | succ left ih =>
    have hpos : 1 + w.bits ≤ bits.length := by
      rw [h]; exact Nat.le_mul_of_pos_left _ (framesTaken_pos w _ bits)
    obtain ⟨b, f, more, hf, rfl⟩ := exists_frame hpos
    cases b with
    | false =>
      rw [framesTaken_ready w (left + 1) (false :: f ++ more) (by simp), List.length_append, List.length_cons, hf] at h
      have hmore : more = [] := List.length_eq_zero_iff.1 (by omega)
      subst hmore
      rw [List.append_nil]
      exact answered_readyFrame hf _
    | true =>
      rw [framesTaken_notReady hf, List.length_append, List.length_cons, hf, Nat.add_mul] at h
      exact (ih (by omega)).notReady hf

end Frames

/-- A time-out, by the status bits (30_encoding R81, 42_command_framer R146). -/
theorem answerOf_timeout_iff {w : RespWidth} {left : Nat} {bits : List Bool}
    (h : bits.length = framesTaken w left bits * (1 + w.bits)) :
    answerOf w left bits = .timeout ↔
      bits.length = (1 + w.bits) * (1 + left) ∧ ∀ k ≤ left, bits[(1 + w.bits) * k]? = some true := by
  cases answered h with
  | timeout junk hjunk hcount hbits hans =>
    refine iff_of_true hans ⟨?_, fun k hk => ?_⟩
    · rw [hbits, notReadyFrames_length hjunk, hcount]
    · rw [hbits, ← List.append_nil (notReadyFrames junk)]
      exact notReadyFrames_status hjunk [] (by omega)
  | ready junk data hjunk hcount hdata hbits hans =>
    have hready : bits[(1 + w.bits) * junk.length]? = some false := by
      rw [hbits]; exact notReadyFrames_append_getElem hjunk (false :: data) 0
    refine iff_of_false (hans ▸ nofun) fun ⟨_, hall⟩ => ?_
    rw [hall _ hcount] at hready
    cases hready

/-- Data, by the status bits: it is the field of the first ready frame, which is the last (30_encoding R81, R83). -/
theorem answerOf_data {w : RespWidth} {left : Nat} {bits : List Bool} {d : BitSeq}
    (h : bits.length = framesTaken w left bits * (1 + w.bits)) (hd : answerOf w left bits = .data d) :
    ∃ k ≤ left, bits.length = (1 + w.bits) * (1 + k) ∧ (∀ j < k, bits[(1 + w.bits) * j]? = some true) ∧
      bits[(1 + w.bits) * k]? = some false ∧ d.width = w.bits ∧
      ∀ m < w.bits, bits[(1 + w.bits) * k + 1 + m]? = some (d.value.getLsbD (w.bits - 1 - m)) := by
  cases answered h with
  | timeout junk hjunk hcount hbits hans => rw [hans] at hd; cases hd
  | ready junk data hjunk hcount hdata hbits hans =>
    rw [hans] at hd
    cases hd
    refine ⟨junk.length, hcount, ?_, fun j hj => ?_, ?_, rfl, fun m hm => ?_⟩
    · rw [hbits, List.length_append, notReadyFrames_length hjunk, List.length_cons, hdata]; ring
    · rw [hbits]; exact notReadyFrames_status hjunk _ hj
    · rw [hbits]; exact notReadyFrames_append_getElem hjunk (false :: data) 0
    · rw [hbits, Nat.add_assoc, notReadyFrames_append_getElem hjunk, Nat.add_comm, List.getElem?_cons_succ]
      have hbit := getElem_eq_ofWire_bit data (hdata ▸ hm)
      rwa [hdata] at hbit

/-- A read-class command run by itself: the answers it read, and what it returned. -/
theorem runCommand_read {cmd : Command} {w : RespWidth} (h : responseWidth cmd = some w) (s : State) :
    (runCommand cmd s).framerRet = some (answerOf w s.cfg.retryMax (answersRead s (runCommand cmd s))) ∧
      (answersRead s (runCommand cmd s)).length =
        framesTaken w s.cfg.retryMax (answersRead s (runCommand cmd s)) * (1 + w.bits) := by
  obtain ⟨bits, hr, hA, hlevels, hlen, -⟩ := sendCommand_read cmd w h s
  obtain ⟨-, htrace⟩ := runCommand_after hr hA
  have hread : answersRead s (runCommand cmd s) = bits := by
    rw [answersRead, htrace, levelsRead_append, levelsRead_frameEvents, hlevels, List.nil_append]
  rw [hread]
  exact ⟨congrArg some hr, hlen⟩

/-- Settles O16: what whole frames mean, read off their status bits. -/
theorem answerIsTheFirstReadyFrame : Obligations.AnswerIsTheFirstReadyFrame := by
  unfold Obligations.AnswerIsTheFirstReadyFrame
  intro s t a h
  obtain rfl : runCommand (.readMem32 a) s = t := Host.Outcome.next.inj h
  obtain ⟨hret, hlen⟩ := runCommand_read (cmd := .readMem32 a) (w := .w32) rfl s
  intro bits
  rw [hret, Option.some.injEq]
  exact ⟨answerOf_timeout_iff hlen, fun d hd => answerOf_data hlen (Option.some.inj hd)⟩

/-! ### Operations that the target answers -/

/-- A bit taken is the bit listed at its place. -/
theorem Taken.agree {bits : List Bool} {s : State} (h : Taken bits s) {p : Nat} {a b : Bool} (ha : bits[p]? = some a)
    (hb : s.dso[p]? = some b) : a = b := by
  obtain ⟨hbits, -⟩ := List.getElem?_eq_some_iff.1 ha
  obtain ⟨hdso, -⟩ := List.getElem?_eq_some_iff.1 hb
  have hp := congrArg (·[p]?) (h.take_eq (n := p + 1) hbits hdso)
  simpa [ha, hb] using hp

/-- Answers taken from not-ready frames and a ready one, no more than polls allow: all of these frames, and the data of
the ready one (42_command_framer R146, R153). -/
theorem answered_of_listed {w : RespWidth} {left : Nat} {bits data more : List Bool} {junk : List (List Bool)}
    {s : State}
    (hlen : bits.length = framesTaken w left bits * (1 + w.bits)) (hT : Taken bits s)
    (hlist : answersBusyThen w junk (false :: data ++ more) s) (hcount : junk.length ≤ left)
    (hdata : data.length = w.bits) :
    bits = notReadyFrames junk ++ false :: data ∧ answerOf w left bits = .data ⟨w.bits, ofWire w.bits data⟩ := by
  obtain ⟨hjunk, hdso⟩ := hlist
  have hready : s.dso[(1 + w.bits) * junk.length]? = some false := by
    rw [hdso]; exact notReadyFrames_append_getElem hjunk (false :: data ++ more) 0
  have hbusy (j : Nat) (hj : j < junk.length) : s.dso[(1 + w.bits) * j]? = some true := by
    rw [hdso]; exact notReadyFrames_status hjunk _ hj
  cases answered hlen with
  | timeout junk' hjunk' hcount' hbits _ =>
    have htaken : bits[(1 + w.bits) * junk.length]? = some true := by
      rw [hbits, ← List.append_nil (notReadyFrames junk')]
      exact notReadyFrames_status hjunk' [] (by omega)
    exact absurd (hT.agree htaken hready) (by decide)
  | ready junk' data' hjunk' hcount' hdata' hbits hans =>
    have hready' : bits[(1 + w.bits) * junk'.length]? = some false := by
      rw [hbits]; exact notReadyFrames_append_getElem hjunk' (false :: data') 0
    have hbusy' (j : Nat) (hj : j < junk'.length) : bits[(1 + w.bits) * j]? = some true := by
      rw [hbits]; exact notReadyFrames_status hjunk' _ hj
    have hsame : junk'.length = junk.length := by
      rcases Nat.lt_trichotomy junk'.length junk.length with hlt | heq | hgt
      · exact absurd (hT.agree hready' (hbusy _ hlt)) (by decide)
      · exact heq
      · exact absurd (hT.agree (hbusy' _ hgt) hready) (by decide)
    have hall : bits.length = (notReadyFrames junk ++ false :: data).length := by
      rw [hbits, List.length_append, List.length_append, notReadyFrames_length hjunk, notReadyFrames_length hjunk',
        hsame, List.length_cons, List.length_cons, hdata, hdata']
    have hdso' : s.dso = (notReadyFrames junk ++ false :: data) ++ more := by
      rw [hdso, List.append_assoc, List.cons_append]
    have htake := hT.take_eq (n := bits.length) le_rfl (by rw [hdso', List.length_append, ← hall]; omega)
    rw [List.take_length, hdso', List.take_left' hall.symm] at htake
    have htail : false :: data' = false :: data :=
      List.append_inj_right' (hbits.symm.trans htake) (by rw [List.length_cons, List.length_cons, hdata, hdata'])
    exact ⟨htake, (List.cons.inj htail).2 ▸ hans⟩

/-- A read-class command that the target answers in time: the word, and no answer taken beyond it. -/
theorem sendCommand_answered {cmd : Command} {w : RespWidth} (hw : responseWidth cmd = some w) {s : State}
    {v : BitVec w.bits} {junk : List (List Bool)} {more : List Bool} (hcount : junk.length ≤ s.cfg.retryMax)
    (hlist : answersBusyThen w junk (false :: wireBits ⟨w.bits, v⟩ ++ more) s) :
    (sendCommand cmd s).1 = .data ⟨w.bits, v⟩ ∧ (sendCommand cmd s).2.dso = more := by
  obtain ⟨bits, hr, hA, hlevels, hlen, hT⟩ := sendCommand_read cmd w hw s
  obtain ⟨hbits, hans⟩ := answered_of_listed hlen hT hlist hcount (wireBits_length _)
  have hword : ofWire w.bits (wireBits ⟨w.bits, v⟩) = v := ofWire_wireBits ⟨w.bits, v⟩
  have hdso : s.dso = bits ++ more := by rw [hlist.2, hbits, List.append_assoc, List.cons_append]
  refine ⟨by rw [hr, hans, hword], ?_⟩
  rw [hA.dso_eq, levelsRead_append, levelsRead_frameEvents, hlevels, List.nil_append, hdso, List.drop_left]

theorem exec_enterDebug {s : State} (h : s.ts = .synchronized) :
    exec .enterDebug s = .next (enterDebugResult (sendCommand .enterDebug (accept s))) :=
  if_neg (not_not.2 (h : (accept s).ts = .synchronized))

/-- Settles O23: the answer is the acknowledgement. -/
theorem enterDebugSucceedsOnTheAck : Obligations.EnterDebugSucceedsOnTheAck := by
  unfold Obligations.EnterDebugSucceedsOnTheAck
  intro s junk more hts hcount hlist
  obtain ⟨hr, hdso⟩ := sendCommand_answered (cmd := .enterDebug) (w := .w16) (s := accept s) rfl hcount hlist
  obtain ⟨-, hcfg, -⟩ := (sendCommand_emitsOwn (i := .enterDebug) .enterDebug (accept s)).frame
  have hresult : enterDebugResult (sendCommand .enterDebug (accept s)) =
      returnOk none (setTs .debugMode (sendCommand .enterDebug (accept s)).2) := by
    unfold enterDebugResult
    rw [hr, hcfg]
    exact if_pos rfl
  exact ⟨_, (exec_enterDebug hts).trans (congrArg _ hresult), rfl, rfl, rfl, rfl, rfl, hdso⟩

/-- Settles O28: both reads end with the word the answer carries. -/
theorem readsReturnTheAnsweredWord : Obligations.ReadsReturnTheAnsweredWord := by
  unfold Obligations.ReadsReturnTheAnsweredWord
  intro s i v junk more hi hts hcount hlist
  obtain ⟨cmd, hw, hexec⟩ : ∃ cmd, responseWidth cmd = some .w32 ∧
      exec i s = .next (readResult (sendCommand cmd (accept s))) := by
    rcases hi with ⟨a, rfl, ha⟩ | ⟨r, rfl, hr⟩
    · exact ⟨_, rfl, exec_readMem32 ha hts⟩
    · exact ⟨_, rfl, exec_readReg hr hts⟩
  obtain ⟨hr, hdso⟩ := sendCommand_answered (s := accept s) hw hcount hlist
  obtain ⟨htsame, -⟩ := (sendCommand_emitsOwn (i := i) cmd (accept s)).frame
  have hresult : readResult (sendCommand cmd (accept s)) = returnOk (some v) (sendCommand cmd (accept s)).2 := by
    unfold readResult
    rw [hr]
    exact congrArg (fun d : Word => returnOk (some d) _) (BitVec.setWidth_eq v)
  exact ⟨_, hexec.trans (congrArg _ hresult), rfl, rfl, rfl, htsame.trans hts, rfl, hdso⟩

end Sys2Proof.Machine

/-! ### SYNC against a target that responds -/

namespace Sys2Proof.Machine

/-- The response window of a well-formed configuration is no empty one and fits its register (00_scope R8). -/
theorem syncResponse_width {c : Config} (h : c.wf = true) : 1 ≤ c.syncResponse.width ∧ c.syncResponse.width ≤ 32 := by
  obtain ⟨-, -, -, -, ⟨hpos, hle, -⟩, -⟩ := (wf_iff c).1 h
  exact ⟨hpos, hle⟩

@[simp] theorem levelsRead_syncEvents (c : Config) (bits : List Bool) : levelsRead (syncEvents c bits) = bits := by
  simp [syncEvents, levelsRead]

/-- Nothing matches before the window is full (41_sync_reset R123). -/
theorem not_syncMatchAt_zero {c : Config} (h : 1 ≤ c.syncResponse.width) (bits : List Bool) : ¬ syncMatchAt c bits 0 :=
  fun hmatch => Nat.not_succ_le_zero 0 (h.trans hmatch.1)

/-- A match at `n` is a matter of the first `n` answers. -/
theorem syncMatchAt_congr {c : Config} {bits bits' : List Bool} {n : Nat} (h : bits.take n = bits'.take n) :
    syncMatchAt c bits n ↔ syncMatchAt c bits' n := by
  rw [syncMatchAt, syncMatchAt, h]

/-- SYNC's stimulus and window: the answers up to the earliest match, or as many as the window has cycles
(41_sync_reset R122, R123). -/
theorem syncWindow_spec {s : State} (h : s.cfg.wf = true) :
    ∃ bits, After (syncEvents s.cfg bits) s (hunt s.cfg.syncMaxCycles (syncStimulus s)).2 ∧ Taken bits s ∧
      bits.length ≤ s.cfg.syncMaxCycles ∧ (∀ n < bits.length, ¬ syncMatchAt s.cfg bits n) ∧
      if (hunt s.cfg.syncMaxCycles (syncStimulus s)).1 then syncMatchAt s.cfg bits bits.length
      else bits.length = s.cfg.syncMaxCycles ∧ ¬ syncMatchAt s.cfg bits bits.length := by
  obtain ⟨hpos, hle⟩ := syncResponse_width h
  obtain ⟨hstim, hwindow⟩ := syncStimulus_spec s
  obtain ⟨bits, hA, hT, hcycles, hearly, hend⟩ := hunt_spec hle s.cfg.syncMaxCycles [] (syncStimulus s) hwindow
  simp only [List.nil_append, List.length_nil, Nat.zero_add] at hearly hend
  have hzero := not_syncMatchAt_zero hpos bits
  refine ⟨bits, hstim.trans hA, ?taken, hcycles, fun n hn => ?early, ?ending⟩
  case taken =>
    have hdso : (syncStimulus s).dso = s.dso := by simpa [levelsRead] using hstim.dso_eq
    rwa [Taken, hdso] at hT
  case early =>
    rcases Nat.eq_zero_or_pos n with rfl | hn0
    · exact hzero
    · exact hearly n hn0 hn
  case ending =>
    split at hend
    next hm => rw [if_pos hm]; exact hend.2
    next hm =>
      rw [if_neg hm]
      refine ⟨hend.1, ?_⟩
      by_cases hbits : bits = []
      · rw [hbits] at hzero ⊢; exact hzero
      · exact hend.2 hbits

/-- Answers listed with a match in time end the window by then, with a match. -/
theorem syncWindow_matches {s : State} (h : s.cfg.wf = true) {n : Nat} (hmax : n ≤ s.cfg.syncMaxCycles)
    (hn : n ≤ s.dso.length) (hmatch : syncMatchAt s.cfg s.dso n) :
    (hunt s.cfg.syncMaxCycles (syncStimulus s)).1 = true ∧
      ∃ bits, After (syncEvents s.cfg bits) s (hunt s.cfg.syncMaxCycles (syncStimulus s)).2 ∧ bits.length ≤ n := by
  obtain ⟨bits, hA, hT, -, hearly, hend⟩ := syncWindow_spec h
  have hseen (hle : n ≤ bits.length) : syncMatchAt s.cfg bits n := (syncMatchAt_congr (hT.take_eq hle hn)).2 hmatch
  have hlen : bits.length ≤ n := by
    by_contra hgt
    exact hearly n (by omega) (hseen (by omega))
  refine ⟨?_, bits, hA, hlen⟩
  by_contra hno
  rw [if_neg hno] at hend
  obtain ⟨hcycles, hnot⟩ := hend
  have hsame : bits.length = n := by omega
  exact hnot (hsame ▸ hseen hsame.ge)

theorem exec_sync {s : State} (h : s.ts = .reset)
    (hmatch : (hunt (accept s).cfg.syncMaxCycles (syncStimulus (accept s))).1 = true) :
    exec .sync s =
      .next (returnOk none (setTs .synchronized (hunt (accept s).cfg.syncMaxCycles (syncStimulus (accept s))).2)) := by
  have hts : ¬ (accept s).ts ≠ .reset := not_not.2 h
  simp only [exec, execSync]
  rw [if_neg hts, if_pos hmatch]

/-- Settles O21: the window ends with the match that the target's answers hold. -/
theorem syncSucceedsOnTheResponse : Obligations.SyncSucceedsOnTheResponse := by
  unfold Obligations.SyncSucceedsOnTheResponse
  intro s n hts hwf hmax hn hmatch
  obtain ⟨hok, bits, hA, hlen⟩ := syncWindow_matches (s := accept s) hwf hmax hn hmatch
  refine ⟨_, exec_sync hts hok, rfl, rfl, rfl, rfl, rfl, ?_⟩
  have htrace := opTrace_of_trace (s := s)
    (t := returnOk none (setTs .synchronized (hunt (accept s).cfg.syncMaxCycles (syncStimulus (accept s))).2))
    hA.trace_eq
  rw [answersRead, htrace, levelsRead_syncEvents]
  exact hlen

end Sys2Proof.Machine

/-! ### No pulse before the handshake -/

namespace Sys2Proof.Machine

/-- `t` comes after `s` with events but no DSCLK pulse. -/
def Unclocked (s t : State) : Prop := ∃ es, t.trace = es.reverse ++ s.trace ∧ pulseCount es = 0

section Unclocked

variable {s t u : State}

/-- No event at all. -/
theorem Unclocked.of_trace_eq (h : t.trace = s.trace) : Unclocked s t := ⟨[], h, rfl⟩

theorem Unclocked.trans (h : Unclocked s t) (g : Unclocked t u) : Unclocked s u := by
  obtain ⟨es, hes, hcount⟩ := h
  obtain ⟨fs, hfs, gcount⟩ := g
  exact ⟨es ++ fs, by rw [hfs, hes, List.reverse_append, List.append_assoc],
    by rw [pulseCount_append, hcount, gcount]⟩

theorem Unclocked.pulseCount_eq (h : Unclocked s t) : pulseCount (opTrace s t) = 0 := by
  obtain ⟨es, hes, hcount⟩ := h
  rw [opTrace_of_trace hes, hcount]

/-! #### Host operations -/

/-- Where a host operation must not clock the wire: in Unknown, and in Reset unless it is SYNC (40_bit_engine R110). -/
def MustNotClock (ts : TargetState) (isSync : Prop) : Prop := ts = .unknown ∨ ts = .reset ∧ ¬ isSync

theorem MustNotClock.not_synchronized {isSync : Prop} (h : MustNotClock s.ts isSync) : s.ts ≠ .synchronized := by
  rcases h with h | ⟨h, -⟩ <;> rw [h] <;> exact nofun

theorem MustNotClock.not_debugMode {isSync : Prop} (h : MustNotClock s.ts isSync) : s.ts ≠ .debugMode := by
  rcases h with h | ⟨h, -⟩ <;> rw [h] <;> exact nofun

/-- An access outside DebugMode ends before any event (43_access_layer R160, R170). -/
theorem access_unclocked (h : s.ts ≠ .debugMode) (ok : Bool) (bad : Kind) (cmd : Command)
    (done : FramerRet × State → State) : Unclocked s (access ok bad cmd done (accept s)) := by
  rcases access_cases ok bad cmd done (accept s) with ⟨-, h'⟩ | ⟨-, -, h'⟩ | ⟨-, hts, -⟩
  · rw [h']; exact .of_trace_eq rfl
  · rw [h']; exact .of_trace_eq rfl
  · exact absurd hts h

/-- SYNC outside Reset is a state error (41_sync_reset R122). -/
theorem exec_sync_wrongState (h : s.ts ≠ .reset) : exec .sync s = .next (raise .stateError .none (accept s)) :=
  if_pos (h : (accept s).ts ≠ .reset)

/-- ENTER_DEBUG outside Synchronized is a state error (41_sync_reset R126). -/
theorem exec_enterDebug_wrongState (h : s.ts ≠ .synchronized) :
    exec .enterDebug s = .next (raise .stateError .none (accept s)) :=
  if_pos (h : (accept s).ts ≠ .synchronized)

/-- RESET_TARGET moves RESET only (41_sync_reset R120). -/
theorem pulseCount_resetTargetEvents (c : Config) : pulseCount (resetTargetEvents c) = 0 := rfl

theorem exec_unclocked {i : Instr} (hi : isHostOp i = true) (hquiet : MustNotClock s.ts (i = .sync))
    (h : exec i s = .next t) : Unclocked s t := by
  cases i with
  | resetTarget => cases h; exact ⟨resetTargetEvents s.cfg, rfl, pulseCount_resetTargetEvents s.cfg⟩
  | sync =>
    have hts : s.ts = .unknown := hquiet.resolve_right fun ⟨_, hne⟩ => hne rfl
    rw [exec_sync_wrongState (by rw [hts]; exact nofun)] at h
    cases h
    exact .of_trace_eq rfl
  | enterDebug =>
    rw [exec_enterDebug_wrongState hquiet.not_synchronized] at h
    cases h
    exact .of_trace_eq rfl
  | readMem32 a => cases h; exact access_unclocked hquiet.not_debugMode _ _ _ _
  | writeMem32 a d => cases h; exact access_unclocked hquiet.not_debugMode _ _ _ _
  | readReg r => cases h; exact access_unclocked hquiet.not_debugMode _ _ _ _
  | writeReg r d => cases h; exact access_unclocked hquiet.not_debugMode _ _ _ _
  | disconnect => cases h; exact .of_trace_eq rfl
  | cmdReadMem32 | cmdWriteMem32 | cmdReadReg | cmdWriteReg | cmdEnterDebug | cmdPoll => cases hi

/-! #### The ports -/

/-- SYNC has tag 1 (30_encoding R88). -/
theorem op_of_decodeRequest_sync {r : Request} {bits : List Bool} (h : decodeRequest r = .instr .sync bits) :
    r.op = 0x1 := by
  unfold decodeRequest at h
  split at h <;> cases h
  next hop => exact BitVec.eq_of_toNat_eq hop

theorem serveRequest_unclocked {r : Request} (hquiet : MustNotClock s.ts (r.op = 0x1))
    (h : serveRequest r s = .next t) : Unclocked s t := by
  obtain ⟨hbusy, -⟩ := serveRequest_next h
  cases hd : decodeRequest r with
  | refused why => simp [serveRequest, hbusy, hd] at h
  | instr i bits =>
    rw [serveRequest_of_decode hbusy hd] at h
    refine exec_unclocked (decodeRequest_isHostOp hd) (hquiet.imp_right fun ⟨hts, hne⟩ => ⟨hts, ?_⟩) h
    rintro rfl
    exact hne (op_of_decodeRequest_sync hd)

/-- The framer is called in Synchronized or in DebugMode (40_bit_engine R110). -/
theorem ts_of_framerCalledIn {i : Instr} {ts : TargetState} (h : framerCalledIn i ts = true) :
    ts = .synchronized ∨ ts = .debugMode := by
  cases ts with
  | synchronized => exact .inl rfl
  | debugMode => exact .inr rfl
  | unknown | reset => cases i <;> cases h

theorem serveFrame_ne_next {isSync : Prop} (hquiet : MustNotClock s.ts isSync) (bits : List Bool) :
    serveFrame bits s ≠ .next t := by
  intro h
  cases hd : decodeFrame s.cfg bits with
  | refused why => simp [serveFrame, hd] at h
  | instr i more =>
    rw [serveFrame_of_decode hd] at h
    split at h
    next hcalled => exact (ts_of_framerCalledIn hcalled).elim hquiet.not_synchronized hquiet.not_debugMode
    next => cases h

/-- Engine reset pulses no DSCLK (70_reset_and_hazards R201). -/
theorem engineReset_unclocked (c : Config) (s : State) : Unclocked s (engineReset c s) :=
  ⟨resetEvents c, engineReset_trace c s, rfl⟩

/-! #### What happens meanwhile -/

theorem Unclocked.midway (h : Unclocked s t) (n : Nat) : Unclocked s (midway n s t) := by
  obtain ⟨es, hes, hcount⟩ := h
  refine ⟨es.take n, midway_trace hes n, Nat.le_zero.1 ?_⟩
  exact hcount ▸ (List.take_sublist n es).countP_le

/-- Happenings that are no request add no pulse. -/
theorem along_unclocked (l : List Happening) {k : Nat} (hl : ∀ a ∈ l, ∀ r, a.what ≠ .request r) (hst : Unclocked s t)
    (h : along l k s t = .next u) : Unclocked s u := by
  induction l generalizing k s t with
  | nil => cases h; exact hst
  | cons a l ih =>
    obtain ⟨gap, what⟩ := a
    obtain ⟨hfirst, hrest⟩ := List.forall_mem_cons.1 hl
    cases what with
    | hostRead p =>
      obtain ⟨s', hs', h⟩ := andThen_eq_next h
      obtain ⟨t', ht', h⟩ := andThen_eq_next h
      obtain ⟨v, -, rfl⟩ := serveRead_next hs'
      obtain ⟨w, -, rfl⟩ := serveRead_next ht'
      exact ih (s := sees [v] s) (t := sees [w] t) hrest hst h
    | attachEngine m =>
      obtain ⟨_, -, h⟩ := andThen_eq_next h
      exact ih (s := addOther m s) (t := addOther m t) hrest hst h
    | engineReset c =>
      obtain ⟨_, hr, h⟩ := andThen_eq_next h
      obtain ⟨-, -, rfl⟩ := serveReset_next.1 hr
      have hcut := engineReset_unclocked c (Machine.midway (k + gap) s t)
      exact (hst.midway (k + gap)).trans (ih (s := resetStart c (Machine.midway (k + gap) s t)) hrest hcut h)
    | request r => exact absurd rfl (hfirst r)

end Unclocked

/-! #### Every input -/

/-- An input that asks for SYNC. -/
def AsksSync (x : Input) : Prop :=
  ∃ a d l, x = .request ⟨0x1, a, d⟩ ∨ x = .requestIfOk ⟨0x1, a, d⟩ ∨ x = .requestDuring ⟨0x1, a, d⟩ l

theorem request_of_op {r : Request} (h : r.op = 0x1) : r = ⟨0x1, r.a, r.d⟩ := by
  cases r; cases h; rfl

theorem serve_unclocked {x : Input} {s t : State} (hquiet : MustNotClock s.ts (AsksSync x))
    (hx : ∀ a ∈ happenings x, ∀ r, a.what ≠ .request r) (h : serve x s = .next t) : Unclocked s t := by
  have request {r : Request} (hask : r.op = 0x1 → AsksSync x) {t : State} :
      serveRequest r s = .next t → Unclocked s t :=
    serveRequest_unclocked (hquiet.imp_right fun ⟨hts, hne⟩ => ⟨hts, hne ∘ hask⟩)
  cases x with
  | request r => exact request (fun hop => ⟨r.a, r.d, [], .inl (congrArg _ (request_of_op hop))⟩) h
  | requestIfOk r =>
    simp only [serve] at h
    split at h
    · exact request (fun hop => ⟨r.a, r.d, [], .inr (.inl (congrArg _ (request_of_op hop)))⟩) h
    · cases h; exact .of_trace_eq rfl
  | requestDuring r l =>
    obtain ⟨u, hu, h⟩ := andThen_eq_next h
    have hop : r.op = 0x1 → AsksSync (.requestDuring r l) := fun hop =>
      ⟨r.a, r.d, l, .inr (.inr (congrArg (Input.requestDuring · l) (request_of_op hop)))⟩
    exact along_unclocked l hx (request hop hu) h
  | frame bits => exact absurd h (serveFrame_ne_next hquiet bits)
  | engineReset c =>
    obtain ⟨-, -, rfl⟩ := serveReset_next.1 h
    exact engineReset_unclocked c s
  | resetDuring c l =>
    obtain ⟨_, hr, h⟩ := andThen_eq_next h
    obtain ⟨-, -, rfl⟩ := serveReset_next.1 hr
    exact along_unclocked (s := resetStart c s) l hx (engineReset_unclocked c s) h
  | hostRead p =>
    obtain ⟨v, -, rfl⟩ := serveRead_next h
    exact .of_trace_eq rfl
  | attachEngine m =>
    obtain ⟨-, -, rfl⟩ := serveAttach_next.1 h
    exact .of_trace_eq rfl

/-- Settles O35: the operations by their state checks, every other input by what its port does. -/
theorem noClockBeforeTheHandshake : Obligations.NoClockBeforeTheHandshake := by
  unfold Obligations.NoClockBeforeTheHandshake
  refine ⟨fun i s t hi h => ⟨fun hts => ?_, fun hts hne => ?_⟩,
    fun s t x rest hin hx h => ⟨fun hts => ?_, fun hts hne => ?_⟩⟩
  · exact (exec_unclocked hi (.inl hts) h).pulseCount_eq
  · exact (exec_unclocked hi (.inr ⟨hts, hne⟩) h).pulseCount_eq
  all_goals rw [step_of_inbox hin] at h
  · exact (serve_unclocked (s := { s with inbox := rest }) (.inl hts) hx h).pulseCount_eq
  · have hnot : ¬ AsksSync x := by
      rintro ⟨a, d, l, hask⟩
      obtain ⟨h1, h2, h3⟩ := hne a d l
      exact hask.elim h1 (Or.rec h2 h3)
    exact (serve_unclocked (s := { s with inbox := rest }) (.inr ⟨hts, hnot⟩) hx h).pulseCount_eq

end Sys2Proof.Machine

/-! ### Pulses, samples and events of a stretch -/

namespace Sys2Proof.Machine

/-- A stretch of events with `p` pulses, `r` samples and `e` events, the three columns of 40_bit_engine R109. -/
def HasCounts (p r e : Nat) (es : List Event) : Prop := pulseCount es = p ∧ sampleCount es = r ∧ es.length = e

theorem sampleCount_append (es fs : List Event) : sampleCount (es ++ fs) = sampleCount es + sampleCount fs := by
  rw [sampleCount, levelsRead_append, List.length_append]
  rfl

theorem HasCounts.append {p r e p' r' e' : Nat} {es fs : List Event} (h : HasCounts p r e es)
    (g : HasCounts p' r' e' fs) : HasCounts (p + p') (r + r') (e + e') (es ++ fs) := by
  obtain ⟨hp, hr, he⟩ := h
  obtain ⟨gp, gr, ge⟩ := g
  exact ⟨by rw [pulseCount_append, hp, gp], by rw [sampleCount_append, hr, gr], by rw [List.length_append, he, ge]⟩

/-- One stretch for each of a list, all with the same counts. -/
theorem HasCounts.flatMap {α : Type} {p r e : Nat} {f : α → List Event} (h : ∀ a, HasCounts p r e (f a))
    (l : List α) : HasCounts (l.length * p) (l.length * r) (l.length * e) (l.flatMap f) := by
  induction l with
  | nil => simp [HasCounts, pulseCount, sampleCount, levelsRead]
  | cons a l ih =>
    have hcons := (h a).append ih
    rwa [Nat.add_comm p, Nat.add_comm r, Nat.add_comm e, ← Nat.succ_mul, ← Nat.succ_mul, ← Nat.succ_mul] at hcons

theorem After.hasCounts {p r e : Nat} {es : List Event} {s t : State} (h : After es s t) (hes : HasCounts p r e es) :
    HasCounts p r e (opTrace s t) := by
  rwa [h.opTrace_eq]

/-! #### The bit engine's stretches (40_bit_engine R103, R105, R106) -/

theorem hasCounts_pulseEvents : HasCounts 1 0 4 pulseEvents := ⟨rfl, rfl, rfl⟩

theorem hasCounts_sampleEvents (b : Bool) : HasCounts 1 1 5 (sampleEvents b) := ⟨rfl, rfl, rfl⟩

theorem hasCounts_bitEvents (b : Bool) : HasCounts 1 0 6 (bitEvents b) := ⟨rfl, rfl, rfl⟩

theorem hasCounts_shiftOutEvents (b : BitSeq) : HasCounts b.width 0 (6 * b.width) (shiftOutEvents b) := by
  have hbits := HasCounts.flatMap hasCounts_bitEvents (wireBits b)
  rwa [wireBits_length, Nat.mul_one, Nat.mul_zero, Nat.mul_comm] at hbits

theorem hasCounts_shiftInEvents (bits : List Bool) :
    HasCounts bits.length bits.length (2 + 5 * bits.length) (shiftInEvents bits) := by
  have hhold : HasCounts 0 0 2 [.wr .dsi false, .dly .setup] := ⟨rfl, rfl, rfl⟩
  have hbits := hhold.append (HasCounts.flatMap hasCounts_sampleEvents bits)
  rwa [Nat.zero_add, Nat.mul_one, Nat.mul_comm] at hbits

/-- The loop of ShiftIn is one sampled pulse a bit, at every width: the accumulator's width bounds the value that comes
in (`shiftInBits_spec`), not the events. -/
theorem shiftInBits_after (n k : Nat) (s : State) :
    ∃ bits : List Bool, bits.length = k ∧ After (bits.flatMap sampleEvents) s (shiftInBits n k s) := by
  induction k generalizing s with
  | zero => exact ⟨[], rfl, After.refl s⟩
  | succ k ih =>
    obtain ⟨bits, hlen, hrest⟩ :=
      ih { (pulseSample s).2 with sh := accumulate n (pulseSample s).2.sh (pulseSample s).1, nbit := k }
    have hfirst : After (sampleEvents (pulseSample s).1) s
        { (pulseSample s).2 with sh := accumulate n (pulseSample s).2.sh (pulseSample s).1, nbit := k } :=
      After.of_emits rfl
    exact ⟨(pulseSample s).1 :: bits, by rw [List.length_cons, hlen], hfirst.trans hrest⟩

theorem shiftIn_after (n : Nat) (s : State) :
    ∃ bits, bits.length = n ∧ After (shiftInEvents bits) s (shiftIn n s).2 := by
  obtain ⟨bits, hlen, hloop⟩ := shiftInBits_after n n { dly .setup (wr .dsi false s) with sh := 0, nbit := n }
  have hhold : After [.wr .dsi false, .dly .setup] s { dly .setup (wr .dsi false s) with sh := 0, nbit := n } :=
    After.of_emits rfl
  exact ⟨bits, hlen, hhold.trans hloop⟩

/-- Settles O7: each operation is its stretch of events, and the counts add up bit by bit. -/
theorem bitEngineCounts : Obligations.BitEngineCounts := by
  unfold Obligations.BitEngineCounts
  refine ⟨fun s => ?pulse, fun s => ?pulseSample, fun b s => ?shiftOut, fun n s => ?shiftIn⟩
  case pulse => exact (After.of_emits rfl).hasCounts hasCounts_pulseEvents
  case pulseSample => exact (After.of_emits rfl).hasCounts (hasCounts_sampleEvents (pulseSample s).1)
  case shiftOut => exact (shiftOut_spec b s).hasCounts (hasCounts_shiftOutEvents b)
  case shiftIn =>
    obtain ⟨bits, rfl, hrun⟩ := shiftIn_after n s
    exact hrun.hasCounts (hasCounts_shiftInEvents bits)

end Sys2Proof.Machine

/-! ### Engine reset while an operation runs -/

namespace Sys2Proof.Machine

/-- Reads of `BUSY` only add to what the host has seen; what happens after them meets the events they waited for
(10_state R28, R36). -/
theorem along_polls_busy_append {s t : State} (ht : t.busy = false) (gaps : List Nat) (l : List Happening) :
    ∃ vs, along (readsOf .busy gaps ++ l) 0 s t = along l gaps.sum (sees vs s) (sees vs t) := by
  have hrunning : ∀ n ≤ (opTrace s t).length, ∀ vs, hostValue .busy (midway n (sees vs s) (sees vs t)) = .inl 1 := by
    intro n hn vs
    rw [midway_sees, hostValue_sees, hostValue, midway_busy hn]
    rfl
  have hended : ∀ vs, hostValue .busy (sees vs t) = .inl 0 := by
    intro vs
    rw [hostValue_sees, hostValue, ht]
    rfl
  have hreads := along_reads .busy 1 0 s t hrunning hended gaps l 0 []
  rw [Nat.zero_add] at hreads
  exact ⟨_, hreads⟩

/-- Engine reset after such reads starts from the operation's events so far, and from what the host has seen
(70_reset_and_hazards R200, R207). -/
theorem along_polls_busy_engineReset {s t : State} {c : Config} (ht : t.busy = false) (hc : c.wf = true)
    (ho : ∀ m ∈ s.others, m.shares c.pinmap = false) (hst : t.others = s.others) (gaps : List Nat) (n : Nat) :
    ∃ vs, along (readsOf .busy gaps ++ [⟨n, .engineReset c⟩]) 0 s t =
      .next (engineReset c (sees vs (midway (gaps.sum + n) s t))) := by
  obtain ⟨vs, hpolls⟩ := along_polls_busy_append ht gaps [⟨n, .engineReset c⟩]
  have hcut := along_engineReset (s := sees vs s) (t := sees vs t) hc ho hst (gaps.sum + n)
  rw [midway_sees] at hcut
  refine ⟨vs, hpolls.trans (Eq.trans ?_ hcut)⟩
  simp only [along, Nat.zero_add]

/-- READ_MEM32 of an aligned address with `TS` Unknown: the response is a state error, and nothing else changes
(43_access_layer R162, R170). -/
theorem exec_readMem32_unknown {s : State} {a : Word} (ha : a.toNat % 4 = 0) (hts : s.ts = .unknown) :
    exec (.readMem32 a) s = .next (withResponse .unknown .memoryAccessError .stateError none s) := by
  have hne : (accept s).ts ≠ .debugMode := by rw [accept_ts, hts]; exact nofun
  have hacc : access (aligned4 a) .alignmentError (.readMem32 a) readResult (accept s) =
      raise .memoryAccessError .stateError (accept s) := by
    rw [access, if_pos ((aligned4_iff a).2 ha), if_neg hne]
  rw [← hts]
  exact congrArg Host.Outcome.next hacc

/-- Settles O45: engine reset runs on what the operation has emitted so far, and its end has forgotten the operation. -/
theorem engineResetCutsAnOperation : Obligations.EngineResetCutsAnOperation := by
  unfold Obligations.EngineResetCutsAnOperation
  intro s u r gaps n c i bits a rest hb hc ho ha hin hd hu
  obtain ⟨v, x, k, cause, d, hrun, -, hresp⟩ := hostOp_responds (decodeRequest_isHostOp hd) hu
  obtain ⟨-, -, -, hinbox, -, hothers⟩ := hrun.frame
  have hbusy : u.busy = false := by rw [hresp]; rfl
  have huInbox : u.inbox = rest := by rw [hresp]; exact hinbox
  have huOthers : u.others = s.others := by rw [hresp]; exact hothers
  obtain ⟨vs, halong⟩ :=
    along_polls_busy_engineReset (s := { s with inbox := rest }) hbusy hc ho huOthers gaps n
  have hsofar := midway_trace (exec_trace hu) (gaps.sum + n)
  have hleft := midway_inbox (s := { s with inbox := rest }) huInbox (gaps.sum + n)
  refine ⟨_, (step_requestDuring hb hd hu hin).trans halong, opTrace_of_trace ?_, rfl, rfl, rfl, rfl, rfl,
    engineReset_cfg c _, (engineReset_inbox c _).trans hleft, exec_readMem32_unknown ha rfl⟩
  calc (engineReset c (sees vs (midway (gaps.sum + n) { s with inbox := rest } u))).trace
      = (resetEvents c).reverse ++ (midway (gaps.sum + n) { s with inbox := rest } u).trace := engineReset_trace c _
    _ = (resetEvents c).reverse ++ (((opTrace s u).take (gaps.sum + n)).reverse ++ s.trace) := by rw [hsofar]; rfl
    _ = ((opTrace s u).take (gaps.sum + n) ++ resetEvents c).reverse ++ s.trace := by
      rw [List.reverse_append, List.append_assoc]

end Sys2Proof.Machine

/-! ### The synchronization and reset controller: each operation with its whole effect -/

namespace Sys2Proof.Machine

/-- RESET_TARGET is its four events and its response (41_sync_reset R120). -/
theorem exec_resetTarget (s : State) :
    exec .resetTarget s = .next (returnOk none (setTs .reset (emits (resetTargetEvents s.cfg) (accept s)))) := rfl

/-- Settles O18: the events do not see `BUSY`, which the response writes again. -/
theorem resetTargetResult : Obligations.ResetTargetResult := by
  unfold Obligations.ResetTargetResult
  intro s
  rw [exec_resetTarget, accept, emits_setBusy]
  rfl

/-- DISCONNECT is its response alone (41_sync_reset R127). -/
theorem exec_disconnect (s : State) : exec .disconnect s = .next (returnOk none (setTs .unknown (accept s))) := rfl

/-- Settles O19: the response writes again the `BUSY` that the acceptance wrote. -/
theorem disconnectResult : Obligations.DisconnectResult := by
  unfold Obligations.DisconnectResult
  intro s
  rw [exec_disconnect]
  rfl

/-- An operation that emitted `es` since it was accepted, and then wrote neither trace nor answers, read what `es`
reads. -/
theorem After.answers {es : List Event} {bits : List Bool} {s t u : State} (h : After es (accept s) u)
    (hlevels : levelsRead es = bits) (hT : Taken bits (accept s)) (htrace : t.trace = u.trace) (hdso : t.dso = u.dso) :
    answersRead s t = bits ∧ answersTaken s t := by
  have hread : answersRead s t = bits := by
    rw [answersRead, opTrace_of_trace (s := s) (htrace.trans h.trace_eq), hlevels]
  refine ⟨hread, ?_, ?_⟩
  · rw [hread]; exact hT
  · rw [hread, ← hlevels]; exact hdso.trans h.dso_eq

/-! #### SYNC -/

/-- A window that ends without a match is a synchronization error, with `TS` as it was (41_sync_reset R122). -/
theorem exec_sync_noMatch {s : State} (h : s.ts = .reset)
    (hno : ¬ (hunt (accept s).cfg.syncMaxCycles (syncStimulus (accept s))).1 = true) :
    exec .sync s =
      .next (raise .synchronizationError .none (hunt (accept s).cfg.syncMaxCycles (syncStimulus (accept s))).2) := by
  have hts : ¬ (accept s).ts ≠ .reset := not_not.2 h
  simp only [exec, execSync]
  rw [if_neg hts, if_neg hno]

/-- Settles O20: the window's end (`syncWindow_spec`) decides between the two responses. -/
theorem syncStopsAtTheEarliestMatch : Obligations.SyncStopsAtTheEarliestMatch := by
  unfold Obligations.SyncStopsAtTheEarliestMatch
  intro s hwf
  refine ⟨exec_sync_wrongState, fun hts => ?_⟩
  obtain ⟨bits, hA, hT, hcycles, hearly, hend⟩ := syncWindow_spec (s := accept s) hwf
  have hlevels := levelsRead_syncEvents s.cfg bits
  split at hend
  next hmatch =>
    obtain ⟨hread, htaken⟩ := hA.answers hlevels hT (t := returnOk none (setTs .synchronized _)) rfl rfl
    refine ⟨_, exec_sync hts hmatch, ?_⟩
    rw [hread]
    exact ⟨htaken, hcycles, hearly, .inl ⟨hend, respond_after _ _ _ _ hA⟩⟩
  next hno =>
    obtain ⟨hall, hnot⟩ := hend
    obtain ⟨hread, htaken⟩ := hA.answers hlevels hT (t := raise .synchronizationError .none _) rfl rfl
    refine ⟨_, exec_sync_noMatch hts hno, ?_⟩
    rw [hread, ← hts]
    exact ⟨htaken, hcycles, hearly, .inr ⟨hall, hnot, respond_after_same _ _ _ hA⟩⟩

/-! #### ENTER_DEBUG -/

section EnterDebug

variable {p : FramerRet × State}

/-- Whatever the framer answered, only `TS` and the response are written (41_sync_reset R126). -/
theorem enterDebugResult_wires (p : FramerRet × State) :
    (enterDebugResult p).trace = p.2.trace ∧ (enterDebugResult p).dso = p.2.dso := by
  unfold enterDebugResult
  split
  next => split <;> exact ⟨rfl, rfl⟩
  all_goals exact ⟨rfl, rfl⟩

theorem enterDebugResult_timeout (h : p.1 = .timeout) :
    enterDebugResult p = raise .debugModeEntryError .commandTimeout p.2 := by
  rw [enterDebugResult, h]

theorem enterDebugResult_ack (h : p.1 = .data ⟨16, p.2.cfg.enterAck⟩) :
    enterDebugResult p = returnOk none (setTs .debugMode p.2) := by
  rw [enterDebugResult, h]
  exact if_pos rfl

theorem enterDebugResult_refused {v : BitVec 16} (h : p.1 = .data ⟨16, v⟩) (hv : v ≠ p.2.cfg.enterAck) :
    enterDebugResult p = raiseWith .debugModeEntryError .refused (v.setWidth 32) p.2 := by
  have hne : (⟨16, v⟩ : BitSeq) ≠ ⟨16, p.2.cfg.enterAck⟩ := fun he => hv (by simpa using he)
  rw [enterDebugResult, h]
  exact if_neg hne

end EnterDebug

/-- Settles O22: one command, and one line of the table for each thing its answers can mean (primed: the plain
name is the model's function). -/
theorem enterDebugResult' : Obligations.EnterDebugResult := by
  unfold Obligations.EnterDebugResult
  intro s
  refine ⟨exec_enterDebug_wrongState, fun hts => ?_⟩
  obtain ⟨bits, hans, hA, hlevels, hlen, hT⟩ := sendCommand_read .enterDebug .w16 rfl (accept s)
  have hcfg : (sendCommand .enterDebug (accept s)).2.cfg = s.cfg := hA.cfg_eq
  obtain ⟨htrace, hdso⟩ := enterDebugResult_wires (sendCommand .enterDebug (accept s))
  obtain ⟨hread, htaken⟩ :=
    hA.answers (by rw [levelsRead_append, levelsRead_frameEvents, hlevels, List.nil_append]) hT htrace hdso
  refine ⟨_, exec_enterDebug hts, htaken, ?_⟩
  rw [hread, ← hts]
  refine ⟨hlen, ?_⟩
  rcases answerOf_cases .w16 s.cfg.retryMax bits with hout | ⟨v, hdata⟩
  · refine .inl ⟨hout, ?_⟩
    rw [enterDebugResult_timeout (hans.trans hout)]
    exact respond_after_same _ _ _ hA
  · refine .inr ⟨v, hdata, fun hack => ?ack, fun hrefused => ?refused⟩
    case ack =>
      subst hack
      rw [enterDebugResult_ack (by rw [hcfg]; exact hans.trans hdata)]
      exact respond_after _ _ _ _ hA
    case refused =>
      rw [enterDebugResult_refused (hans.trans hdata) (hcfg ▸ hrefused)]
      exact respond_after_same _ _ _ hA

end Sys2Proof.Machine

/-! ### Read-class commands run by themselves -/

namespace Sys2Proof.Machine

/-- A command with a response of its own goes out through `SendCommand` (42_command_framer R145). -/
theorem exec_readClass {cmd : Command} {w : RespWidth} (h : responseWidth cmd = some w) (s : State) :
    exec cmd.toInstr s = .next (runCommand cmd s) := by
  cases cmd with
  | readMem32 | readReg | enterDebug => rfl
  | writeMem32 | writeReg | poll => cases h

/-- What a stretch of events reads is what its `RD`s say, whatever is written afterwards but trace and answers. -/
theorem After.reads {es : List Event} {bits : List Bool} {s t u : State} (h : After es s u)
    (hlevels : levelsRead es = bits) (hT : Taken bits s) (htrace : t.trace = u.trace) (hdso : t.dso = u.dso) :
    opTrace s t = es ∧ answersRead s t = bits ∧ answersTaken s t := by
  have hes : opTrace s t = es := opTrace_of_trace (htrace.trans h.trace_eq)
  have hread : answersRead s t = bits := by rw [answersRead, hes, hlevels]
  refine ⟨hes, hread, ?_, ?_⟩
  · rw [hread]; exact hT
  · rw [hread, ← hlevels]; exact hdso.trans h.dso_eq

/-- Its frame, then the response frames and polls that the answers it read call for; they are whole frames, the listed
ones as far as the list goes (42_command_framer R145, R146). -/
theorem runCommand_exchanges {cmd : Command} {w : RespWidth} (h : responseWidth cmd = some w) (s : State) :
    scrub (runCommand cmd s) =
        { emits (frameEvents s.cfg cmd ++
            responseEvents s.cfg w s.cfg.retryMax (answersRead s (runCommand cmd s))) (scrub s) with
          framerRet := some (answerOf w s.cfg.retryMax (answersRead s (runCommand cmd s))) } ∧
      (answersRead s (runCommand cmd s)).length =
        framesTaken w s.cfg.retryMax (answersRead s (runCommand cmd s)) * (1 + w.bits) ∧
      answersTaken s (runCommand cmd s) := by
  obtain ⟨bits, hr, hA, hlevels, hlen, hT⟩ := sendCommand_read cmd w h s
  obtain ⟨hscrub, -⟩ := runCommand_after hr hA
  obtain ⟨-, hread, htaken⟩ := hA.reads (t := runCommand cmd s)
    (by rw [levelsRead_append, levelsRead_frameEvents, hlevels, List.nil_append]) hT rfl rfl
  rw [hread]
  exact ⟨hscrub, hlen, htaken⟩

/-- Settles O12: each of the three is a command with a response of its own. -/
theorem readCommandsExchangeFrames : Obligations.ReadCommandsExchangeFrames := by
  unfold Obligations.ReadCommandsExchangeFrames
  intro s i cmd w hi
  obtain ⟨rfl, hw⟩ : i = cmd.toInstr ∧ responseWidth cmd = some w := by
    rcases hi with ⟨a, rfl, rfl, rfl⟩ | ⟨r, rfl, rfl, rfl⟩ | ⟨rfl, rfl, rfl⟩ <;> exact ⟨rfl, rfl⟩
  exact ⟨_, exec_readClass hw s, runCommand_exchanges hw s⟩

/-! #### A poll, whatever is pending -/

/-- The poll sends its word and takes in one response frame of the width `pollWidth` says (42_command_framer R152;
assumption log, entry 7). -/
theorem exec_cmdPoll_exchanges (s : State) :
    ∃ t, exec .cmdPoll s = .next t ∧ (answersRead s t).length = 1 + (pollWidth s).bits ∧
      opTrace s t = frameEvents s.cfg .poll ++ shiftInEvents (answersRead s t) ∧ answersTaken s t := by
  obtain ⟨bits, hlen, -, hA, hT⟩ := pollOnce_spec (pollWidth s) s
  obtain ⟨t, hexec, htrace, hdso⟩ : ∃ t, exec .cmdPoll s = .next t ∧
      t.trace = (pollOnce (pollWidth s) s).2.trace ∧ t.dso = (pollOnce (pollWidth s) s).2.dso := ⟨_, rfl, rfl, rfl⟩
  obtain ⟨hes, hread, htaken⟩ := hA.reads
    (by rw [levelsRead_append, levelsRead_frameEvents, levelsRead_shiftInEvents, List.nil_append]) hT htrace hdso
  refine ⟨t, hexec, ?_⟩
  rw [hread]
  exact ⟨hlen, hes, htaken⟩

/-- Settles O14: the width is the one `pollWidth` leaves free. -/
theorem pollWithNothingPendingStillRuns : Obligations.PollWithNothingPendingStillRuns := by
  unfold Obligations.PollWithNothingPendingStillRuns
  intro s _
  obtain ⟨t, hexec, hlen, htrace, htaken⟩ := exec_cmdPoll_exchanges s
  exact ⟨t, pollWidth s, hexec, hlen, htrace, htaken⟩

/-! #### What a command leaves alone -/

/-- Only host operations give a response (10_state R29). -/
theorem Responds.isHostOp {before x : TargetState} {i : Instr} {k : Kind} {c : Cause} {d : Option Word}
    (h : Responds before i x k c d) : isHostOp i = true := by
  cases h with
  | resetTarget | disconnect | syncInWrongState | synchronized | notSynchronized => rfl
  | enterInWrongState | entered | refused | entryTimeout => rfl
  | misaligned hi => rcases hi with ⟨a, rfl⟩ | ⟨a, d, rfl⟩ <;> rfl
  | noRegister hi => rcases hi with ⟨r, rfl⟩ | ⟨r, d, rfl⟩ <;> rfl
  | accessInWrongState hi => rcases hi with (⟨a, rfl⟩ | ⟨r, rfl⟩) | (⟨a, d, rfl⟩ | ⟨r, d, rfl⟩) <;> rfl
  | written hi => rcases hi with ⟨a, d, rfl⟩ | ⟨r, d, rfl⟩ <;> rfl
  | read hi | readTimeout hi => rcases hi with ⟨a, rfl⟩ | ⟨r, rfl⟩ <;> rfl

/-- A wire command run by itself ends with what the framer returns, not with a response (42_command_framer R140). -/
theorem command_returns {i : Instr} {s t : State} (hi : isHostOp i = false) (h : exec i s = .next t) :
    ∃ u r, EmitsOwn i s u ∧ t = { u with framerRet := some r } := by
  cases exec_concludes h with
  | responded hrun hresp => rw [hresp.isHostOp] at hi; cases hi
  | returned r hcmd hrun => exact ⟨_, r, hrun, rfl⟩

/-- Events do not touch `RESULT` and `BUSY` (10_state R28, R29). -/
theorem EmitsOwn.result {i : Instr} {s t : State} (h : EmitsOwn i s t) :
    t.resKind = s.resKind ∧ t.resCause = s.resCause ∧ t.resData = s.resData ∧ t.busy = s.busy := by
  obtain ⟨es, -, hA⟩ := h
  have field {α : Type} (f : State → α) : f (scrub t) = f (emits es (scrub s)) := congrArg f hA
  exact ⟨(field State.resKind).trans (emits_resKind ..), (field State.resCause).trans (emits_resCause ..),
    (field State.resData).trans (emits_resData ..), (field State.busy).trans (emits_busy ..)⟩

theorem toInstr_not_hostOp (cmd : Command) : isHostOp cmd.toInstr = false := by cases cmd <;> rfl

/-- A command leaves the levels of BKPT and RESET and every direction: no event of it writes them (O34), so they are as
before (O38). -/
theorem command_controlLines {i : Instr} {s t : State} (hi : isHostOp i = false) (h : exec i s = .next t) :
    t.lvBkpt = s.lvBkpt ∧ t.lvReset = s.lvReset ∧ t.dirDsi = s.dirDsi ∧ t.dirDso = s.dirDso ∧
      t.dirDsclk = s.dirDsclk ∧ t.dirBkpt = s.dirBkpt ∧ t.dirReset = s.dirReset := by
  obtain ⟨hbkpt, hreset, hdir⟩ := controlLinesHaveOneWriter i s t h
  obtain ⟨-, -, -, -, hB, hR, hd1, hd2, hd3, hd4, hd5⟩ := pinsFollowTheTrace i s t h
  obtain ⟨e1, e2, e3, e4, e5⟩ := emits_directions hdir s
  have hsync : i ≠ .sync := by rintro rfl; cases hi
  have htarget : i ≠ .resetTarget := by rintro rfl; cases hi
  exact ⟨hB.trans (emits_latch (p := .bkpt) (hbkpt hsync) s), hR.trans (emits_latch (p := .reset) (hreset htarget) s),
    hd1.trans e1, hd2.trans e2, hd3.trans e3, hd4.trans e4, hd5.trans e5⟩

/-- Settles O15: a command emits its own events and returns, and neither touches the rest. -/
theorem framerWritesNoStatus : Obligations.FramerWritesNoStatus := by
  unfold Obligations.FramerWritesNoStatus
  intro cmd s t h
  have hi := toInstr_not_hostOp cmd
  obtain ⟨hB, hR, hd1, hd2, hd3, hd4, hd5⟩ := command_controlLines hi h
  obtain ⟨u, r, hrun, rfl⟩ := command_returns hi h
  obtain ⟨hts, hcfg, -, hin, hsees, hothers⟩ := hrun.frame
  obtain ⟨hkind, hcause, hdata, hbusy⟩ := hrun.result
  exact ⟨hts, hkind, hcause, hdata, hbusy, hcfg, hB, hR, hd1, hd2, hd3, hd4, hd5, hin, hsees, hothers⟩

end Sys2Proof.Machine

/-! ### Pulses, samples and events of the framer's commands -/

namespace Sys2Proof.Machine

theorem hasCounts_frameEvents (c : Config) (cmd : Command) :
    HasCounts (16 + 32 * (operands cmd).length) 0 (6 * (16 + 32 * (operands cmd).length)) (frameEvents c cmd) := by
  rw [frameEvents_eq, ← Laws.frame_length c cmd, Nat.mul_comm 6]
  simpa using HasCounts.flatMap hasCounts_bitEvents (frameBits c cmd)

/-- The counts of `RecvResponse(W)` with `k` not-ready frames: `1 + k` frames in and `k` polls of 16 bits out
(42_command_framer R154). -/
def HasResponseCounts (w : RespWidth) (k : Nat) (es : List Event) : Prop :=
  HasCounts ((1 + k) * (1 + w.bits) + 16 * k) ((1 + k) * (1 + w.bits)) ((1 + k) * (2 + 5 * (1 + w.bits)) + 96 * k) es

section ResponseCounts

variable {w : RespWidth} {b : Bool} {f : List Bool}

theorem hasCounts_responseFrame (hf : f.length = w.bits) (b : Bool) :
    HasCounts (1 + w.bits) (1 + w.bits) (2 + 5 * (1 + w.bits)) (shiftInEvents (b :: f)) := by
  have hlen : (b :: f).length = 1 + w.bits := by rw [List.length_cons, hf, Nat.add_comm]
  exact hlen ▸ hasCounts_shiftInEvents (b :: f)

/-- One frame alone. -/
theorem hasResponseCounts_frame (hf : f.length = w.bits) (b : Bool) :
    HasResponseCounts w 0 (shiftInEvents (b :: f)) := by
  have hframe := hasCounts_responseFrame hf b
  simpa [HasResponseCounts] using hframe

/-- A frame and a poll more. -/
theorem HasResponseCounts.notReady {k : Nat} {es : List Event} (h : HasResponseCounts w k es) (hf : f.length = w.bits)
    (c : Config) : HasResponseCounts w (k + 1) (shiftInEvents (true :: f) ++ (frameEvents c .poll ++ es)) := by
  have hpoll : HasCounts 16 0 96 (frameEvents c .poll) := hasCounts_frameEvents c .poll
  have hall := (hasCounts_responseFrame hf true).append (hpoll.append h)
  unfold HasResponseCounts
  convert hall using 1 <;> ring

/-- The events of a ready frame, or of the last that the ceiling allows: the frame alone (42_command_framer R146). -/
theorem responseEvents_last {left : Nat} (hf : f.length = w.bits) (h : b = true → left = 0) (c : Config) :
    responseEvents c w left (b :: f) = shiftInEvents (b :: f) := by
  have htake : (b :: f).take (1 + w.bits) = b :: f := List.take_of_length_le (by rw [List.length_cons, hf]; omega)
  cases b with
  | false => rw [responseEvents_ready c w left (false :: f) (by simp), htake]
  | true => rw [h rfl, responseEvents, htake]

/-- After a not-ready frame with a poll left: the poll, and what the frames after it call for. -/
theorem responseEvents_notReady (hf : f.length = w.bits) (c : Config) (left : Nat) (bits : List Bool) :
    responseEvents c w (left + 1) (true :: f ++ bits) =
      shiftInEvents (true :: f) ++ (frameEvents c .poll ++ responseEvents c w left bits) := by
  have htake : (true :: f ++ bits).take (1 + w.bits) = true :: f :=
    List.take_left' (by rw [List.length_cons, hf, Nat.add_comm])
  conv_lhs => unfold responseEvents
  rw [htake, drop_frame hf, List.cons_append, List.head?_cons, if_pos rfl]

/-- Not-ready frames and one more, which is ready or the last that the ceiling allows. -/
theorem responseEvents_frames_counts {junk : List (List Bool)} {left : Nat} (hjunk : ∀ g ∈ junk, g.length = w.bits)
    (hf : f.length = w.bits) (hcount : junk.length ≤ left) (hlast : b = true → left = junk.length) (c : Config) :
    HasResponseCounts w junk.length (responseEvents c w left (notReadyFrames junk ++ b :: f)) := by
  induction junk generalizing left with
  | nil => exact responseEvents_last hf hlast c ▸ hasResponseCounts_frame hf b
  | cons g junk ih =>
    obtain ⟨hg, hjunk⟩ := List.forall_mem_cons.1 hjunk
    have hcons : notReadyFrames (g :: junk) ++ b :: f = true :: g ++ (notReadyFrames junk ++ b :: f) := by
      simp [notReadyFrames]
    cases left with
    | zero => cases hcount
    | succ left =>
      rw [hcons, responseEvents_notReady hg]
      exact (ih hjunk (Nat.le_of_succ_le_succ hcount) fun hb => Nat.succ.inj (hlast hb)).notReady hg c

end ResponseCounts

/-- Whole frames have these counts for a `k` that the ceiling bounds, and that a time-out has brought to it
(42_command_framer R154, R155). -/
theorem responseEvents_counts (c : Config) {w : RespWidth} {left : Nat} {bits : List Bool}
    (h : bits.length = framesTaken w left bits * (1 + w.bits)) :
    ∃ k ≤ left, HasResponseCounts w k (responseEvents c w left bits) ∧
      (answerOf w left bits = .timeout → k = left) := by
  cases answered h with
  | ready junk data hjunk hcount hdata hbits hans =>
    refine ⟨junk.length, hcount, ?_, fun hout => ?_⟩
    · rw [hbits]; exact responseEvents_frames_counts (b := false) hjunk hdata hcount nofun c
    · rw [hans] at hout; cases hout
  | timeout junk hjunk hcount hbits _ =>
    obtain rfl | ⟨junk, f, rfl⟩ := List.eq_nil_or_concat' junk
    · rw [List.length_nil] at hcount; omega
    · obtain ⟨hjunk, hf⟩ := List.forall_mem_append.1 hjunk
      have hsplit : bits = notReadyFrames junk ++ true :: f := by rw [hbits]; simp [notReadyFrames]
      have hleft : left = junk.length := by rw [List.length_append, List.length_singleton] at hcount; omega
      rw [hsplit]
      exact ⟨junk.length, hleft.ge, responseEvents_frames_counts hjunk (hf f List.mem_cons_self) hleft.ge
        (fun _ => hleft) c, fun _ => hleft.symm⟩

/-- A read-class command with `k` not-ready frames: its frame, and what `RecvResponse` adds (42_command_framer R154,
R155). -/
theorem sendCommand_counts {cmd : Command} {w : RespWidth} (h : responseWidth cmd = some w) (s : State) :
    ∃ es, After es s (sendCommand cmd s).2 ∧ ∃ k ≤ s.cfg.retryMax,
      HasCounts (16 + 32 * (operands cmd).length + ((1 + k) * (1 + w.bits) + 16 * k)) ((1 + k) * (1 + w.bits))
        (6 * (16 + 32 * (operands cmd).length) + ((1 + k) * (2 + 5 * (1 + w.bits)) + 96 * k)) es ∧
      ((sendCommand cmd s).1 = .timeout → k = s.cfg.retryMax) := by
  obtain ⟨bits, hr, hA, -, hlen, -⟩ := sendCommand_read cmd w h s
  obtain ⟨k, hk, hcounts, htimeout⟩ := responseEvents_counts s.cfg hlen
  refine ⟨_, hA, k, hk, ?_, fun hout => htimeout (hr ▸ hout)⟩
  simpa only [Nat.zero_add] using (hasCounts_frameEvents s.cfg cmd).append hcounts

/-- Settles O17: the counts of the command that each of the three runs. -/
theorem pollCountBoundsTheTraffic : Obligations.PollCountBoundsTheTraffic := by
  unfold Obligations.PollCountBoundsTheTraffic
  intro s t i frameLen w hi h
  obtain ⟨cmd, width, hwidth, rfl, rfl, rfl⟩ : ∃ cmd width, responseWidth cmd = some width ∧ i = cmd.toInstr ∧
      frameLen = 16 + 32 * (operands cmd).length ∧ w = width.bits := by
    rcases hi with ⟨a, rfl, rfl, rfl⟩ | ⟨r, rfl, rfl, rfl⟩ | ⟨rfl, rfl, rfl⟩
    · exact ⟨.readMem32 a, .w32, rfl, rfl, rfl, rfl⟩
    · exact ⟨.readReg r, .w32, rfl, rfl, rfl, rfl⟩
    · exact ⟨.enterDebug, .w16, rfl, rfl, rfl, rfl⟩
  rw [exec_readClass hwidth] at h
  obtain rfl : runCommand cmd s = t := Host.Outcome.next.inj h
  obtain ⟨es, hA, k, hk, ⟨hpulses, hsamples, -⟩, htimeout⟩ := sendCommand_counts hwidth s
  obtain ⟨-, htrace⟩ := runCommand_after rfl hA
  rw [htrace]
  exact ⟨k, hk, hsamples, hpulses.trans (Nat.add_assoc ..).symm, fun hout => htimeout (Option.some.inj hout)⟩

end Sys2Proof.Machine

/-! ### Reads that the target never answers in time -/

namespace Sys2Proof.Machine

/-- Answers taken from as many not-ready frames as `RecvResponse` may take in: all of these frames, and a time-out
(42_command_framer R146). -/
theorem timedOut_of_listed {w : RespWidth} {left : Nat} {bits more : List Bool} {junk : List (List Bool)} {s : State}
    (hlen : bits.length = framesTaken w left bits * (1 + w.bits)) (hT : Taken bits s)
    (hlist : answersBusyThen w junk more s) (hcount : junk.length = 1 + left) :
    bits = notReadyFrames junk ∧ answerOf w left bits = .timeout := by
  obtain ⟨hjunk, hdso⟩ := hlist
  cases answered hlen with
  | ready junk' data hjunk' hcount' _ hbits _ =>
    have hready : bits[(1 + w.bits) * junk'.length]? = some false := by
      rw [hbits]; exact notReadyFrames_append_getElem hjunk' (false :: data) 0
    have hbusy : s.dso[(1 + w.bits) * junk'.length]? = some true := by
      rw [hdso]; exact notReadyFrames_status hjunk more (by omega)
    exact absurd (hT.agree hready hbusy) (by decide)
  | timeout junk' hjunk' hcount' hbits hans =>
    have hsame : bits.length = (notReadyFrames junk).length := by
      rw [hbits, notReadyFrames_length hjunk, notReadyFrames_length hjunk', hcount, hcount']
    have htake := hT.take_eq (n := bits.length) le_rfl (by rw [hdso, List.length_append, ← hsame]; omega)
    rw [List.take_length, hdso, List.take_left' hsame.symm] at htake
    exact ⟨htake, hans⟩

/-- A read-class command that gets nothing but not-ready frames: a time-out, and no answer taken beyond them. -/
theorem sendCommand_timedOut {cmd : Command} {w : RespWidth} (hw : responseWidth cmd = some w) {s : State}
    {junk : List (List Bool)} {more : List Bool} (hcount : junk.length = 1 + s.cfg.retryMax)
    (hlist : answersBusyThen w junk more s) :
    (sendCommand cmd s).1 = .timeout ∧ (sendCommand cmd s).2.dso = more := by
  obtain ⟨bits, hr, hA, hlevels, hlen, hT⟩ := sendCommand_read cmd w hw s
  obtain ⟨hbits, hans⟩ := timedOut_of_listed hlen hT hlist hcount
  refine ⟨hr.trans hans, ?_⟩
  rw [hA.dso_eq, levelsRead_append, levelsRead_frameEvents, hlevels, List.nil_append, hlist.2, hbits, List.drop_left]

theorem readResult_timeout {p : FramerRet × State} (h : p.1 = .timeout) :
    readResult p = raise .memoryAccessError .commandTimeout (setTs .unknown p.2) := by
  rw [readResult, h]

/-- A read with a good operand in DebugMode is what it makes of one command with a 32-bit response (43_access_layer
R161, R165). -/
theorem exec_goodRead {s : State} {i : Instr}
    (hi : (∃ a : Word, i = .readMem32 a ∧ a.toNat % 4 = 0) ∨ (∃ r : Word, i = .readReg r ∧ r.toNat < s.cfg.regCount))
    (hts : s.ts = .debugMode) :
    ∃ cmd, responseWidth cmd = some .w32 ∧ exec i s = .next (readResult (sendCommand cmd (accept s))) := by
  rcases hi with ⟨a, rfl, ha⟩ | ⟨r, rfl, hr⟩
  · exact ⟨_, rfl, exec_readMem32 ha hts⟩
  · exact ⟨_, rfl, exec_readReg hr hts⟩

/-- Settles O29: the read ends in the time-out, and the `TS` it leaves is not Synchronized. -/
theorem timeoutDropsToUnknown : Obligations.TimeoutDropsToUnknown := by
  unfold Obligations.TimeoutDropsToUnknown
  intro s i junk more hi hts hcount hlist
  obtain ⟨cmd, hw, hexec⟩ := exec_goodRead hi hts
  obtain ⟨hout, hdso⟩ := sendCommand_timedOut (s := accept s) hw hcount hlist
  rw [readResult_timeout hout] at hexec
  exact ⟨_, hexec, rfl, rfl, rfl, rfl, hdso, exec_enterDebug_wrongState nofun⟩

end Sys2Proof.Machine

/-! ### The counts of every operation -/

namespace Sys2Proof.Machine

theorem HasCounts.of_trace {p r e : Nat} {es : List Event} {s t : State} (hes : HasCounts p r e es)
    (h : t.trace = es.reverse ++ s.trace) : HasCounts p r e (opTrace s t) := by
  rwa [opTrace_of_trace h]

/-! #### Rejections -/

/-- The response of a rejected operation: a state error, or an operand error, as its kind or its cause (60_exceptions
R180 to R182). -/
def Rejected (t : State) : Prop :=
  t.resKind = some 4 ∨ t.resKind = some 5 ∨ t.resKind = some 6 ∨ t.resCause = some 4

theorem rejected_respond_iff {k : Kind} {c : Cause} {d : Option Word} {u : State} :
    Rejected (respond k c d u) ↔ k ∈ [Kind.stateError, .alignmentError, .invalidRegisterError] ∨ c = .stateError := by
  cases k <;> cases c <;> simp [Rejected, respond, Kind.code, Cause.code]

theorem not_rejected_returnOk (d : Option Word) (u : State) : ¬ Rejected (returnOk d u) :=
  rejected_respond_iff.not.2 (by decide)

theorem not_rejected_timeout {k : Kind} (hk : k = .memoryAccessError ∨ k = .debugModeEntryError) (u : State) :
    ¬ Rejected (raise k .commandTimeout u) := by
  refine rejected_respond_iff.not.2 ?_
  rcases hk with rfl | rfl <;> decide

section Answer

variable {w : RespWidth} {p : FramerRet × State}

theorem readResult_data {d : BitSeq} (h : p.1 = .data d) :
    readResult p = returnOk (some (d.value.setWidth 32)) p.2 := by
  rw [readResult, h]

/-- A read that got an answer or a time-out is not rejected, and its cause tells which (43_access_layer R161, R165). -/
theorem readResult_response (h : p.1 = .timeout ∨ ∃ v : BitVec w.bits, p.1 = .data ⟨w.bits, v⟩) :
    ¬ Rejected (readResult p) ∧ ((readResult p).resCause = some 3 → p.1 = .timeout) := by
  rcases h with hout | ⟨v, hdata⟩
  · rw [readResult_timeout hout]
    exact ⟨not_rejected_timeout (.inl rfl) _, fun _ => hout⟩
  · rw [readResult_data hdata]
    exact ⟨not_rejected_returnOk _ _, nofun⟩

/-- The same for ENTER_DEBUG (41_sync_reset R125, R126). -/
theorem enterDebugResult_response (h : p.1 = .timeout ∨ ∃ v : BitVec 16, p.1 = .data ⟨16, v⟩) :
    ¬ Rejected (enterDebugResult p) ∧ ((enterDebugResult p).resCause = some 3 → p.1 = .timeout) := by
  rcases h with hout | ⟨v, hdata⟩
  · rw [enterDebugResult_timeout hout]
    exact ⟨not_rejected_timeout (.inr rfl) _, fun _ => hout⟩
  · by_cases hack : v = p.2.cfg.enterAck
    · rw [enterDebugResult_ack (hack ▸ hdata)]
      exact ⟨not_rejected_returnOk _ _, nofun⟩
    · rw [enterDebugResult_refused hdata hack]
      exact ⟨rejected_respond_iff.not.2 (by decide), nofun⟩

end Answer

section Rejected

variable {s t : State}

/-- An access that is rejected, where its command's answer would not be, has sent nothing (43_access_layer R170). -/
theorem access_rejected_trace {ok : Bool} {bad : Kind} {cmd : Command} {done : FramerRet × State → State}
    (hdone : ¬ Rejected (done (sendCommand cmd (accept s)))) (h : Rejected (access ok bad cmd done (accept s))) :
    (access ok bad cmd done (accept s)).trace = s.trace := by
  rcases access_cases ok bad cmd done (accept s) with ⟨-, hacc⟩ | ⟨-, -, hacc⟩ | ⟨-, -, hacc⟩
  · rw [hacc]; rfl
  · rw [hacc]; rfl
  · rw [hacc] at h; exact absurd h hdone

theorem read_not_rejected {cmd : Command} {w : RespWidth} (hw : responseWidth cmd = some w) (s : State) :
    ¬ Rejected (readResult (sendCommand cmd s)) :=
  (readResult_response ((sendCommand_runs cmd s).2 w hw)).1

/-- A rejected operation emits nothing (70_reset_and_hazards R214). -/
theorem exec_rejected_trace {i : Instr} (hi : isHostOp i = true) (h : exec i s = .next t) (hrej : Rejected t) :
    t.trace = s.trace := by
  cases i with
  | resetTarget | disconnect => cases h; exact absurd hrej (not_rejected_returnOk _ _)
  | sync =>
    by_cases hts : s.ts = .reset
    · by_cases hmatch : (hunt (accept s).cfg.syncMaxCycles (syncStimulus (accept s))).1 = true
      · rw [exec_sync hts hmatch] at h
        cases h
        exact absurd hrej (not_rejected_returnOk _ _)
      · rw [exec_sync_noMatch hts hmatch] at h
        cases h
        exact absurd hrej (rejected_respond_iff.not.2 (by decide))
    · rw [exec_sync_wrongState hts] at h
      cases h
      rfl
  | enterDebug =>
    by_cases hts : s.ts = .synchronized
    · rw [exec_enterDebug hts] at h
      cases h
      exact absurd hrej (enterDebugResult_response ((sendCommand_runs .enterDebug (accept s)).2 .w16 rfl)).1
    · rw [exec_enterDebug_wrongState hts] at h
      cases h
      rfl
  | readMem32 a => cases h; exact access_rejected_trace (read_not_rejected rfl _) hrej
  | readReg r => cases h; exact access_rejected_trace (read_not_rejected rfl _) hrej
  | writeMem32 a d => cases h; exact access_rejected_trace (not_rejected_returnOk _ _) hrej
  | writeReg r d => cases h; exact access_rejected_trace (not_rejected_returnOk _ _) hrej
  | cmdReadMem32 | cmdWriteMem32 | cmdReadReg | cmdWriteReg | cmdEnterDebug | cmdPoll => cases hi

theorem rejected_counts {i : Instr} (hi : isHostOp i = true) (h : exec i s = .next t) (hrej : Rejected t) :
    HasCounts 0 0 0 (opTrace s t) :=
  HasCounts.of_trace (es := []) ⟨rfl, rfl, rfl⟩ (exec_rejected_trace hi h hrej)

end Rejected

/-! #### Operations without a command -/

section Controller

variable {s t : State}

theorem resetTarget_counts (h : exec .resetTarget s = .next t) : HasCounts 0 0 4 (opTrace s t) := by
  cases h
  exact HasCounts.of_trace (es := resetTargetEvents s.cfg) ⟨rfl, rfl, rfl⟩ rfl

theorem disconnect_counts (h : exec .disconnect s = .next t) : HasCounts 0 0 0 (opTrace s t) := by
  cases h
  exact HasCounts.of_trace (es := []) ⟨rfl, rfl, rfl⟩ rfl

/-- The window samples once a cycle, and all its cycles where none matches; this holds at every width of the response,
which `hunt_spec` bounds (41_sync_reset R122). -/
theorem hunt_after (left : Nat) (s : State) :
    ∃ bits : List Bool, After (bits.flatMap sampleEvents) s (hunt left s).2 ∧
      (¬ (hunt left s).1 = true → bits.length = left) := by
  induction left generalizing s with
  | zero => exact ⟨[], After.refl s, fun _ => rfl⟩
  | succ left ih =>
    obtain ⟨b, hcycle, -⟩ := huntCycle_spec s
    obtain ⟨bits, hrest, hall⟩ := ih (huntCycle s)
    by_cases hm : windowMatches (huntCycle s) = true
    · have hend : hunt (left + 1) s = (true, huntCycle s) := by simp [hunt, hm]
      rw [hend]
      exact ⟨[b], by simpa using hcycle, fun hno => absurd rfl hno⟩
    · have hgo : hunt (left + 1) s = hunt left (huntCycle s) := by simp [hunt, hm]
      rw [hgo]
      exact ⟨b :: bits, hcycle.trans hrest, fun hno => by rw [List.length_cons, hall hno]⟩

theorem syncEvents_counts (c : Config) (bits : List Bool) :
    HasCounts (c.syncPattern.width + bits.length) bits.length (5 + 6 * c.syncPattern.width + 5 * bits.length)
      (syncEvents c bits) := by
  have hpulse : HasCounts 0 0 3 [.wr .bkpt c.bkptActive, .dly .bkptHold, .wr .bkpt (!c.bkptActive)] := ⟨rfl, rfl, rfl⟩
  have hhold : HasCounts 0 0 2 [.wr .dsi false, .dly .setup] := ⟨rfl, rfl, rfl⟩
  have hwindow := HasCounts.flatMap hasCounts_sampleEvents bits
  have hall := ((hpulse.append (hasCounts_shiftOutEvents c.syncPattern)).append hhold).append hwindow
  unfold syncEvents
  convert hall using 1 <;> ring

theorem sync_counts (hts : s.ts = .reset) (h : exec .sync s = .next t) :
    ∃ n, HasCounts (s.cfg.syncPattern.width + n) n (5 + 6 * s.cfg.syncPattern.width + 5 * n) (opTrace s t) ∧
      (t.resKind ≠ some 0 → n = s.cfg.syncMaxCycles) := by
  obtain ⟨bits, hwindow, hall⟩ := hunt_after (accept s).cfg.syncMaxCycles (syncStimulus (accept s))
  obtain ⟨hstim, -⟩ := syncStimulus_spec (accept s)
  have hA : After (syncEvents s.cfg bits) (accept s) (hunt (accept s).cfg.syncMaxCycles (syncStimulus (accept s))).2 :=
    hstim.trans hwindow
  refine ⟨bits.length, ?_⟩
  by_cases hmatch : (hunt (accept s).cfg.syncMaxCycles (syncStimulus (accept s))).1 = true
  · rw [exec_sync hts hmatch] at h
    cases h
    exact ⟨(syncEvents_counts s.cfg bits).of_trace hA.trace_eq, fun hkind => absurd rfl hkind⟩
  · rw [exec_sync_noMatch hts hmatch] at h
    cases h
    exact ⟨(syncEvents_counts s.cfg bits).of_trace hA.trace_eq, fun _ => hall hmatch⟩

end Controller

/-! #### Operations with a command -/

section Framed

variable {s t : State}

/-- An operation that sends one read-class command, and whose cause tells a time-out: frame of `n` bits, response frames
of `m` (42_command_framer R154). -/
theorem readClass_counts {cmd : Command} {w : RespWidth} {n m : Nat} (hw : responseWidth cmd = some w)
    (hn : 16 + 32 * (operands cmd).length = n) (hm : 1 + w.bits = m)
    (htrace : t.trace = (sendCommand cmd (accept s)).2.trace)
    (hcause : t.resCause = some 3 → (sendCommand cmd (accept s)).1 = .timeout) :
    ∃ k ≤ s.cfg.retryMax,
      HasCounts (n + ((1 + k) * m + 16 * k)) ((1 + k) * m) (6 * n + ((1 + k) * (2 + 5 * m) + 96 * k)) (opTrace s t) ∧
      (t.resCause = some 3 → k = s.cfg.retryMax) := by
  subst hn hm
  obtain ⟨es, hA, k, hk, hcounts, htimeout⟩ := sendCommand_counts hw (accept s)
  exact ⟨k, hk, hcounts.of_trace (htrace.trans hA.trace_eq), fun h => htimeout (hcause h)⟩

theorem enterDebug_counts (hts : s.ts = .synchronized) (h : exec .enterDebug s = .next t) :
    ∃ k ≤ s.cfg.retryMax, HasCounts (33 + 33 * k) (17 + 17 * k) (183 + 183 * k) (opTrace s t) ∧
      (t.resCause = some 3 → k = s.cfg.retryMax) := by
  rw [exec_enterDebug hts] at h
  cases h
  obtain ⟨htrace, -⟩ := enterDebugResult_wires (sendCommand .enterDebug (accept s))
  obtain ⟨-, hcause⟩ := enterDebugResult_response ((sendCommand_runs .enterDebug (accept s)).2 .w16 rfl)
  obtain ⟨k, hk, hcounts, htimeout⟩ := readClass_counts (n := 16) (m := 17) rfl rfl rfl htrace hcause
  exact ⟨k, hk, by convert hcounts using 1 <;> ring, htimeout⟩

/-- What a read makes of its command: a frame of `n` bits out, response frames of 33 bits in (43_access_layer R161,
R165). -/
theorem readResult_counts {cmd : Command} {n : Nat} (hw : responseWidth cmd = some .w32)
    (hn : 16 + 32 * (operands cmd).length = n) :
    ∃ k ≤ s.cfg.retryMax,
      HasCounts (n + 33 + 49 * k) (33 + 33 * k) (6 * n + 167 + 263 * k)
        (opTrace s (readResult (sendCommand cmd (accept s)))) ∧
      ((readResult (sendCommand cmd (accept s))).resCause = some 3 → k = s.cfg.retryMax) := by
  obtain ⟨-, hcause⟩ := readResult_response ((sendCommand_runs cmd (accept s)).2 .w32 hw)
  obtain ⟨k, hk, hcounts, htimeout⟩ := readClass_counts (m := 33) hw hn rfl (readResult_trace _) hcause
  exact ⟨k, hk, by convert hcounts using 1 <;> ring, htimeout⟩

/-- What a write makes of its command: a frame of `n` bits out, nothing in (43_access_layer R163, R167). -/
theorem writeResult_counts {cmd : Command} {n : Nat} (hw : responseWidth cmd = none)
    (hn : 16 + 32 * (operands cmd).length = n) :
    HasCounts n 0 (6 * n) (opTrace s (writeResult (sendCommand cmd (accept s)))) := by
  subst hn
  obtain ⟨-, hA⟩ := sendCommand_write cmd hw (accept s)
  exact (hasCounts_frameEvents s.cfg cmd).of_trace ((writeResult_trace _).trans hA.trace_eq)

end Framed

/-- Settles O42, operation by operation. -/
theorem countsOfEveryOperation : Obligations.CountsOfEveryOperation := by
  unfold Obligations.CountsOfEveryOperation
  refine ⟨fun c s => ⟨opTrace_engineReset c s, rfl, rfl, rfl⟩, fun i s t hi h => ?_⟩
  refine ⟨?resetTarget, ?disconnect, rejected_counts hi h, ?sync, ?enterDebug, ?readMem32, ?writeMem32, ?readReg,
    ?writeReg⟩
  case resetTarget => rintro rfl; exact resetTarget_counts h
  case disconnect => rintro rfl; exact disconnect_counts h
  case sync => rintro rfl hts; exact sync_counts hts h
  case enterDebug => rintro rfl hts; exact enterDebug_counts hts h
  case readMem32 =>
    rintro a rfl ha hts
    rw [exec_readMem32 ha hts] at h
    obtain rfl := Host.Outcome.next.inj h
    exact readResult_counts (cmd := .readMem32 a) (n := 48) rfl rfl
  case writeMem32 =>
    rintro a d rfl ha hts
    rw [exec_writeMem32 ha hts] at h
    obtain rfl := Host.Outcome.next.inj h
    exact writeResult_counts (cmd := .writeMem32 a d) (n := 80) rfl rfl
  case readReg =>
    rintro r rfl hr hts
    rw [exec_readReg hr hts] at h
    obtain rfl := Host.Outcome.next.inj h
    exact readResult_counts (cmd := .readReg r) (n := 16) rfl rfl
  case writeReg =>
    rintro r d rfl hr hts
    rw [exec_writeReg hr hts] at h
    obtain rfl := Host.Outcome.next.inj h
    exact writeResult_counts (cmd := .writeReg r d) (n := 48) rfl rfl

end Sys2Proof.Machine

/-! ### The access layer: each access with its whole effect -/

namespace Sys2Proof.Machine

section Access

variable {s t : State} {bad : Kind} {cmd : Command} {done : FramerRet × State → State}

/-- A bad operand is an error before anything else is looked at (43_access_layer R160, R170). -/
theorem access_badOperand {ok : Bool} (h : ¬ ok = true) :
    access ok bad cmd done (accept s) = withResponse s.ts bad .none none s := by
  rw [access, if_neg h]
  rfl

/-- A good operand outside DebugMode is a state error, as a cause (43_access_layer R160). -/
theorem access_wrongState {ok : Bool} (h : ok = true) (hts : s.ts ≠ .debugMode) :
    access ok bad cmd done (accept s) = withResponse s.ts .memoryAccessError .stateError none s := by
  have hts' : ¬ (accept s).ts = .debugMode := hts
  rw [access, if_pos h, if_neg hts']
  rfl

/-! #### Operands that are rejected -/

theorem exec_readMem32_misaligned {a : Word} (h : a.toNat % 4 ≠ 0) :
    exec (.readMem32 a) s = .next (withResponse s.ts .alignmentError .none none s) :=
  congrArg Host.Outcome.next (access_badOperand ((aligned4_iff a).not.2 h))

theorem exec_writeMem32_misaligned {a : Word} (d : Word) (h : a.toNat % 4 ≠ 0) :
    exec (.writeMem32 a d) s = .next (withResponse s.ts .alignmentError .none none s) :=
  congrArg Host.Outcome.next (access_badOperand ((aligned4_iff a).not.2 h))

theorem exec_readReg_noRegister {i : Word} (h : s.cfg.regCount ≤ i.toNat) :
    exec (.readReg i) s = .next (withResponse s.ts .invalidRegisterError .none none s) :=
  congrArg Host.Outcome.next (access_badOperand ((validIndex_iff s.cfg i).not.2 h.not_gt))

theorem exec_writeReg_noRegister {i : Word} (d : Word) (h : s.cfg.regCount ≤ i.toNat) :
    exec (.writeReg i d) s = .next (withResponse s.ts .invalidRegisterError .none none s) :=
  congrArg Host.Outcome.next (access_badOperand ((validIndex_iff s.cfg i).not.2 h.not_gt))

/-- A response with no cause and no data, and nothing else, is a rejection without a trace. -/
theorem exec_rejects {i : Instr} {k : Kind} (h : exec i s = .next (withResponse s.ts k .none none s)) :
    ∃ t, exec i s = .next t ∧ t.resKind = some k.code ∧ t.resCause = some 0 ∧ opTrace s t = [] ∧ t.ts = s.ts :=
  ⟨_, h, rfl, rfl, opTrace_of_trace rfl, rfl⟩

/-! #### Accesses that are sent -/

theorem readResult_word {p : FramerRet × State} {v : Word} (h : p.1 = .data ⟨32, v⟩) :
    readResult p = returnOk (some v) p.2 := by
  rw [readResult_data h]
  exact congrArg (fun d : Word => returnOk (some d) p.2) (BitVec.setWidth_eq v)

/-- A read takes nothing from the target but what its command did. -/
@[simp] theorem readResult_dso (p : FramerRet × State) : (readResult p).dso = p.2.dso := by
  obtain ⟨r, t⟩ := p
  cases r <;> rfl

@[simp] theorem writeResult_ts (p : FramerRet × State) : (writeResult p).ts = p.2.ts := rfl

@[simp] theorem writeResult_cfg (p : FramerRet × State) : (writeResult p).cfg = p.2.cfg := rfl

/-- `s` from outside, after the frame of `cmd` and the response frames and polls that the answers read on the way to `t`
call for (42_command_framer R145, R146). -/
def exchanged (cmd : Command) (s t : State) : State :=
  emits (frameEvents s.cfg cmd ++ responseEvents s.cfg .w32 s.cfg.retryMax (answersRead s t)) (scrub s)

/-- A read that is sent: whole response frames, and the line of the table that they mean (43_access_layer R161, R162,
R165, R166). -/
theorem read_effect (hw : responseWidth cmd = some .w32) (hts : s.ts = .debugMode)
    (ht : t = readResult (sendCommand cmd (accept s))) :
    answersTaken s t ∧
      (answersRead s t).length = framesTaken .w32 s.cfg.retryMax (answersRead s t) * (1 + RespWidth.bits .w32) ∧
      ((answerOf .w32 s.cfg.retryMax (answersRead s t) = .timeout ∧
          scrub t = withResponse .unknown .memoryAccessError .commandTimeout none (exchanged cmd s t)) ∨
        ∃ v : Word, answerOf .w32 s.cfg.retryMax (answersRead s t) = .data ⟨32, v⟩ ∧
          scrub t = withResponse .debugMode .ok .none (some v) (exchanged cmd s t)) := by
  subst ht
  obtain ⟨bits, hans, hA, hlevels, hlen, hT⟩ := sendCommand_read cmd .w32 hw (accept s)
  obtain ⟨hread, htaken⟩ :=
    hA.answers (by rw [levelsRead_append, levelsRead_frameEvents, hlevels, List.nil_append]) hT
      (readResult_trace _) (readResult_dso _)
  rw [exchanged, hread]
  refine ⟨htaken, hlen, ?_⟩
  rcases answerOf_cases .w32 s.cfg.retryMax bits with hout | ⟨v, hdata⟩
  · refine .inl ⟨hout, ?_⟩
    rw [readResult_timeout (hans.trans hout)]
    exact respond_after _ _ _ _ hA
  · refine .inr ⟨v, hdata, ?_⟩
    rw [readResult_word (hans.trans hdata), ← hts]
    exact respond_after_same _ _ _ hA

/-- A write that is sent: its frame, a pulse for each of its bits, and OK (43_access_layer R163, R164, R167, R168). -/
theorem write_effect (hw : responseWidth cmd = none) (hts : s.ts = .debugMode)
    (ht : t = writeResult (sendCommand cmd (accept s))) :
    scrub t = withResponse .debugMode .ok .none none (emits (frameEvents s.cfg cmd) (scrub s)) ∧
      pulseCount (opTrace s t) = 16 + 32 * (operands cmd).length := by
  subst ht
  obtain ⟨-, hA⟩ := sendCommand_write cmd hw (accept s)
  constructor
  · rw [← hts]
    exact respond_after_same _ _ _ hA
  · rw [opTrace_of_trace (s := s) ((writeResult_trace _).trans hA.trace_eq)]
    exact pulseCount_frameEvents s.cfg cmd

end Access

/-- Settles O24: the two checks in their order, then one command with a 32-bit response. -/
theorem readMem32Result : Obligations.ReadMem32Result := by
  unfold Obligations.ReadMem32Result
  intro s a
  refine ⟨exec_readMem32_misaligned, fun ha hts => ?wrongState, fun ha hts => ?sent⟩
  case wrongState => exact congrArg Host.Outcome.next (access_wrongState ((aligned4_iff a).2 ha) hts)
  case sent => exact ⟨_, exec_readMem32 ha hts, read_effect rfl hts rfl⟩

/-- Settles O25: the two checks in their order, then a frame of 80 bits. -/
theorem writeMem32Result : Obligations.WriteMem32Result := by
  unfold Obligations.WriteMem32Result
  intro s a d
  refine ⟨exec_writeMem32_misaligned d, fun ha hts => ?wrongState, fun ha hts => ?sent⟩
  case wrongState => exact congrArg Host.Outcome.next (access_wrongState ((aligned4_iff a).2 ha) hts)
  case sent => exact ⟨_, exec_writeMem32 ha hts, write_effect (cmd := .writeMem32 a d) rfl hts rfl⟩

/-- Settles O26: the two checks in their order, then one command with a 32-bit response. -/
theorem readRegResult : Obligations.ReadRegResult := by
  unfold Obligations.ReadRegResult
  intro s i
  refine ⟨exec_readReg_noRegister, fun hi hts => ?wrongState, fun hi hts => ?sent⟩
  case wrongState => exact congrArg Host.Outcome.next (access_wrongState ((validIndex_iff s.cfg i).2 hi) hts)
  case sent => exact ⟨_, exec_readReg hi hts, read_effect rfl hts rfl⟩

/-- Settles O27: the two checks in their order, then a frame of 48 bits. -/
theorem writeRegResult : Obligations.WriteRegResult := by
  unfold Obligations.WriteRegResult
  intro s i d
  refine ⟨exec_writeReg_noRegister d, fun hi hts => ?wrongState, fun hi hts => ?sent⟩
  case wrongState => exact congrArg Host.Outcome.next (access_wrongState ((validIndex_iff s.cfg i).2 hi) hts)
  case sent => exact ⟨_, exec_writeReg hi hts, write_effect (cmd := .writeReg i d) rfl hts rfl⟩

/-- WRITE_MEM32 to an aligned address in DebugMode sends a frame that decodes to the same write, and keeps `TS` and the
configuration (43_access_layer R163). -/
theorem exec_writeMem32_decodes {s : State} {a : Word} (v : Word) (hc : s.cfg.wf = true) (hlow : s.lvDsclk = false)
    (hts : s.ts = .debugMode) (ha : a.toNat % 4 = 0) :
    ∃ t, exec (.writeMem32 a v) s = .next t ∧
      decodeFrame s.cfg (targetSees s t) = .instr (.cmdWriteMem32 a v) [] ∧ t.ts = .debugMode ∧ t.cfg = s.cfg := by
  have hwf : (Command.writeMem32 a v).toInstr.wf s.cfg = true := decide_eq_true ha
  obtain ⟨rest, hdecode, hrest⟩ := decodeFrame_targetSees hc hlow hwf (writeResult_trace _)
  obtain ⟨hts', hcfg, -⟩ := (sendCommand_emitsOwn (i := .writeMem32 a v) (.writeMem32 a v) (accept s)).frame
  exact ⟨_, exec_writeMem32 ha hts, hrest rfl ▸ hdecode, (writeResult_ts _).trans (hts'.trans hts),
    (writeResult_cfg _).trans hcfg⟩

/-- Settles O32: the stored word is the one written, since the target decodes the frame sent, and the read returns the
word answered (O28). -/
theorem writeThenReadReturnsTheWord : Obligations.WriteThenReadReturnsTheWord := by
  unfold Obligations.WriteThenReadReturnsTheWord
  intro s a v junk more hc hlow hts ha hcount hjunk
  obtain ⟨t, hwrite, hdecode, hdebug, hcfg⟩ := exec_writeMem32_decodes v hc hlow hts ha
  refine ⟨t, hwrite, v, hdecode, ?_⟩
  rw [← hcfg] at hcount
  obtain ⟨u, hread, hkind, hcause, hdata, hdebug', -⟩ :=
    readsReturnTheAnsweredWord { t with dso := notReadyFrames junk ++ (false :: wireBits ⟨32, v⟩ ++ more) }
      (.readMem32 a) v junk more (.inl ⟨a, rfl, ha⟩) hdebug hcount ⟨hjunk, rfl⟩
  exact ⟨u, hread, hkind, hcause, hdata, hdebug'⟩

/-- Settles O30: each of the four is rejected with its response and nothing else. -/
theorem badOperandsNeverReachTheWire : Obligations.BadOperandsNeverReachTheWire := by
  unfold Obligations.BadOperandsNeverReachTheWire
  intro s x d
  refine ⟨fun hx => ?misaligned, fun hx => ?noRegister⟩
  case misaligned =>
    exact List.forall_mem_cons.2 ⟨exec_rejects (exec_readMem32_misaligned hx),
      List.forall_mem_singleton.2 (exec_rejects (exec_writeMem32_misaligned d hx))⟩
  case noRegister =>
    exact List.forall_mem_cons.2 ⟨exec_rejects (exec_readReg_noRegister hx),
      List.forall_mem_singleton.2 (exec_rejects (exec_writeReg_noRegister d hx))⟩

end Sys2Proof.Machine

/-! ### The step with no input -/

namespace Sys2Proof.Machine

/-- With no input to take, the step serves nothing: with `step_of_inbox`, all that a step can do. -/
theorem step_of_inbox_nil {s : State} (h : s.inbox = []) : step s = .next s := by
  unfold step serveNext
  rw [h]

/-- Settles O52: serving an input is the only way a step changes the state or emits an event. -/
theorem idleEngineHoldsItsState : Obligations.IdleEngineHoldsItsState := by
  unfold Obligations.IdleEngineHoldsItsState
  intro s hin
  exact step_of_inbox_nil hin

end Sys2Proof.Machine

/-! ### Engine reset drives no line to its asserted level -/

namespace Sys2Proof.Machine

/-- The initialisation sequence writes every output line, and only to its released level (70_reset_and_hazards R200). -/
theorem wr_mem_resetEvents {c : Config} {p : OutLine} {b : Bool} :
    .wr p b ∈ resetEvents c ↔ b = !assertedLevel c p := by
  cases p <;> simp [resetEvents, assertedLevel]

/-- Whatever state it starts from, and also for the data line DSI (70_reset_and_hazards R201). -/
theorem engineReset_asserts_no_line (c : Config) (s : State) (p : OutLine) :
    .wr p (assertedLevel c p) ∉ opTrace s (engineReset c s) := by
  rw [opTrace_engineReset, wr_mem_resetEvents]
  exact Bool.self_ne_not _

/-- Settles O44: RESET, BKPT and DSCLK are three of the lines, and DSCLK's asserted level is 1. -/
theorem engineResetLeavesTheTargetAlone : Obligations.EngineResetLeavesTheTargetAlone := by
  unfold Obligations.EngineResetLeavesTheTargetAlone
  intro c s
  exact ⟨engineReset_asserts_no_line c s .reset, engineReset_asserts_no_line c s .bkpt,
    engineReset_asserts_no_line c s .dsclk⟩

end Sys2Proof.Machine
